-- ==== Sys2Proof/Word.lean ====
section
/-! DEFINITION. The two fixed-width words the model uses outside the register files: a byte of the program text
and a 32-bit instruction word. Register widths are parameters (Sys2Proof/Config.lean). -/

namespace Sys2Proof

/-- One byte of the address space (20_memory.md R51). -/
abbrev Byte := BitVec 8

/-- One instruction word (30_encoding.md R65: every instruction in scope is 32 bits long). -/
abbrev IWord := BitVec 32

end Sys2Proof
end

