-- ==== Sys2Proof/Config.lean ====
section
/-! DEFINITION. The implementation parameters of 00_scope.md R4: XLEN, FLEN, ELEN, VLEN and MLEN, each open in
its domain. A value of `Config` is one admissible choice of all five: the type holds the whole of their domains
and nothing else, so premise P_params of 70_reset_and_hazards.md R202 holds of every `Config`.
A run's parameters are held in the state (`Machine.State.cfg`, log entry 1), so a statement about every state is
a statement about every implementation. The spec leaves no result undefined: there is no free value here. -/

namespace Sys2Proof

/-- The width of a scalar register file: 32 or 64 bits (R4, decisions D1 and D2). -/
inductive RegWidth where
  | w32
  | w64
deriving DecidableEq, Repr

/-- The width in bits. -/
def RegWidth.bits : RegWidth → Nat
  | .w32 => 32
  | .w64 => 64

/-- The two admissible layouts of mask elements in a mask register (40_common.md R93, decision D9). -/
inductive MaskLayout where
  /-- MLEN = 1: mask element i is bit i. -/
  | oneBit
  /-- MLEN = SEW / LMUL of the current vtype: mask element i is the lowest bit of the i-th MLEN-bit field. -/
  | sewOverLmul
deriving DecidableEq, Repr

/-- The five parameters of 00_scope.md R4, fixed for a whole run. -/
structure Config where
  /-- Width of an `x` register, of `pc`, `vl` and `vstart`. -/
  xwidth : RegWidth
  /-- Width of an `f` register; independent of `xwidth` (D2). -/
  fwidth : RegWidth
  /-- ELEN = 8 * 2 ^ elenLog: a power of two, at least 8 (D3). -/
  elenLog : Nat
  /-- VLEN = max(64, ELEN) * 2 ^ vlenLog: a power of two, at least 64 and at least ELEN (D3). -/
  vlenLog : Nat
  /-- MLEN (D9). -/
  maskLayout : MaskLayout
deriving DecidableEq, Repr

/-- XLEN, in {32, 64}. -/
def Config.xlen (c : Config) : Nat := c.xwidth.bits

/-- FLEN, in {32, 64}. -/
def Config.flen (c : Config) : Nat := c.fwidth.bits

/-- ELEN, the largest SEW supported. -/
def Config.elen (c : Config) : Nat := 2 ^ (3 + c.elenLog)

/-- VLEN, the number of bits in one vector register. -/
def Config.vlen (c : Config) : Nat := 2 ^ (max 6 (3 + c.elenLog) + c.vlenLog)

end Sys2Proof
end

