-- ==== Sys2Proof/Syntax.lean ====
section
/-! DEFINITION. The 18 instruction forms of chapter 17 (00_scope.md R2), one constructor per row of
spec/opcode_table.json, operands in the order of the assembler lines of 30_encoding.md R78. -/

namespace Sys2Proof

/-- A register number held in a 5-bit field, naming an integer register (30_encoding.md R66, R70). -/
abbrev XReg := Fin 32

/-- A register number naming a floating-point register. -/
abbrev FReg := Fin 32

/-- A register number naming a vector register, alone or as the lowest of a group (40_common.md R91). -/
abbrev VReg := Fin 32

/-- The 5-bit immediate of the `.vi` forms (30_encoding.md R68). -/
abbrev Uimm := BitVec 5

/-- The instructions. In the maskable forms `vm = true` is the bit value 1, unmasked, and `vm = false` the bit
value 0, masked under `v[0]` (30_encoding.md R66, R79). -/
inductive Instr where
  /-- `vmv.x.s rd, vs2` (R110) -/
  | vmvXS (rd : XReg) (vs2 : VReg)
  /-- `vmv.s.x vd, rs1` (R111) -/
  | vmvSX (vd : VReg) (rs1 : XReg)
  /-- `vfmv.f.s rd, vs2` (R120) -/
  | vfmvFS (rd : FReg) (vs2 : VReg)
  /-- `vfmv.s.f vd, rs1` (R121) -/
  | vfmvSF (vd : VReg) (rs1 : FReg)
  /-- `vslideup.vx vd, vs2, rs1, vm` (R133) -/
  | vslideupVx (vd vs2 : VReg) (rs1 : XReg) (vm : Bool)
  /-- `vslideup.vi vd, vs2, uimm, vm` (R134) -/
  | vslideupVi (vd vs2 : VReg) (uimm : Uimm) (vm : Bool)
  /-- `vslidedown.vx vd, vs2, rs1, vm` (R135) -/
  | vslidedownVx (vd vs2 : VReg) (rs1 : XReg) (vm : Bool)
  /-- `vslidedown.vi vd, vs2, uimm, vm` (R136) -/
  | vslidedownVi (vd vs2 : VReg) (uimm : Uimm) (vm : Bool)
  /-- `vslide1up.vx vd, vs2, rs1, vm` (R137) -/
  | vslide1upVx (vd vs2 : VReg) (rs1 : XReg) (vm : Bool)
  /-- `vslide1down.vx vd, vs2, rs1, vm` (R138) -/
  | vslide1downVx (vd vs2 : VReg) (rs1 : XReg) (vm : Bool)
  /-- `vrgather.vv vd, vs2, vs1, vm` (R152) -/
  | vrgatherVv (vd vs2 vs1 : VReg) (vm : Bool)
  /-- `vrgather.vx vd, vs2, rs1, vm` (R153) -/
  | vrgatherVx (vd vs2 : VReg) (rs1 : XReg) (vm : Bool)
  /-- `vrgather.vi vd, vs2, uimm, vm` (R154) -/
  | vrgatherVi (vd vs2 : VReg) (uimm : Uimm) (vm : Bool)
  /-- `vcompress.vm vd, vs2, vs1` (R160) -/
  | vcompressVm (vd vs2 vs1 : VReg)
  /-- `vmv1r.v vd, vs2` (R171) -/
  | vmv1rV (vd vs2 : VReg)
  /-- `vmv2r.v vd, vs2` (R172) -/
  | vmv2rV (vd vs2 : VReg)
  /-- `vmv4r.v vd, vs2` (R173) -/
  | vmv4rV (vd vs2 : VReg)
  /-- `vmv8r.v vd, vs2` (R174) -/
  | vmv8rV (vd vs2 : VReg)
deriving DecidableEq, Repr

end Sys2Proof
end

