-- ==== Sys2Proof/WellFormed.lean ====
section
/-! DEFINITION. Well-formed instructions. Register numbers and immediates fit their fields by type, so every
`Instr` has an encoding. What remains to check is what the spec asks of the register numbers alone, whatever the
state holds: an instruction that fails one of these checks raises the illegal instruction exception in EVERY state
(60_exceptions.md R181 items 1 to 5, 7, 8, 10). An ill-formed instruction still decodes and executes: its
execution is that exception. -/

namespace Sys2Proof

/-- The destination register differs from a source register: with aligned groups of equal size two groups overlap
exactly when they are the same group, and a group always overlaps itself (40_common.md R92). -/
def destinationApart (vd vs : VReg) : Bool := vd != vs

/-- A masked instruction's destination is not `v[0]` (40_common.md R99). -/
def maskApart (vd : VReg) (vm : Bool) : Bool := vm || vd != 0

/-- Both register numbers of `vmv<nf>r.v` are multiples of nf (46_whole_register_move.md R170). -/
def wholeAligned (nf : Nat) (vd vs2 : VReg) : Bool := vd.val % nf == 0 && vs2.val % nf == 0

/-- The state-independent legality checks of each form. -/
def Instr.wellFormed : Instr → Bool
  | .vmvXS _ _ => true
  | .vmvSX _ _ => true
  | .vfmvFS _ _ => true
  | .vfmvSF _ _ => true
  | .vslideupVx vd vs2 _ vm => destinationApart vd vs2 && maskApart vd vm
  | .vslideupVi vd vs2 _ vm => destinationApart vd vs2 && maskApart vd vm
  | .vslidedownVx vd _ _ vm => maskApart vd vm
  | .vslidedownVi vd _ _ vm => maskApart vd vm
  | .vslide1upVx vd vs2 _ vm => destinationApart vd vs2 && maskApart vd vm
  | .vslide1downVx vd _ _ vm => maskApart vd vm
  | .vrgatherVv vd vs2 vs1 vm => destinationApart vd vs2 && destinationApart vd vs1 && maskApart vd vm
  | .vrgatherVx vd vs2 _ vm => destinationApart vd vs2 && maskApart vd vm
  | .vrgatherVi vd vs2 _ vm => destinationApart vd vs2 && maskApart vd vm
  | .vcompressVm vd vs2 vs1 => destinationApart vd vs2 && destinationApart vd vs1
  | .vmv1rV vd vs2 => wholeAligned 1 vd vs2
  | .vmv2rV vd vs2 => wholeAligned 2 vd vs2
  | .vmv4rV vd vs2 => wholeAligned 4 vd vs2
  | .vmv8rV vd vs2 => wholeAligned 8 vd vs2

end Sys2Proof
end

