-- ==== Sys2Proof/Decode.lean ====
section
/-! DEFINITION. The decoder, from the match and mask numbers of 30_encoding.md R71 and the reserved patterns of R74
and R75, and after it the encoder, from the field layout of R66, R67 and R69. The two are written from different
tables of the spec on purpose: that they agree is a statement. -/

namespace Sys2Proof

/-- Bits 11:7: `vd` or `rd` (R66). -/
def fieldVd (w : IWord) : Fin 32 := (w.extractLsb' 7 5).toFin

/-- Bits 19:15 as a register number: `vs1` or `rs1` (R66). -/
def fieldVs1 (w : IWord) : Fin 32 := (w.extractLsb' 15 5).toFin

/-- Bits 24:20: `vs2` (R66). -/
def fieldVs2 (w : IWord) : Fin 32 := (w.extractLsb' 20 5).toFin

/-- Bits 19:15 as the 5-bit immediate (R68). -/
def fieldUimm (w : IWord) : Uimm := w.extractLsb' 15 5

/-- Bit 25: `vm`, 1 = unmasked (R66). -/
def fieldVm (w : IWord) : Bool := w.getLsbD 25

/-- One row of the opcode map: a word is the instruction iff the bits under `mask` equal `pattern` (R71). -/
structure OpRow where
  mask : IWord
  pattern : IWord
  build : IWord → Instr

/-- The word is one of this row's. -/
def OpRow.accepts (r : OpRow) (w : IWord) : Bool := w &&& r.mask == r.pattern

/-- The opcode map, in the order of R71. -/
def opRows : List OpRow :=
  [ ⟨0xFE0FF07F#32, 0x42002057#32, fun w => .vmvXS (fieldVd w) (fieldVs2 w)⟩,
    ⟨0xFFF0707F#32, 0x42006057#32, fun w => .vmvSX (fieldVd w) (fieldVs1 w)⟩,
    ⟨0xFE0FF07F#32, 0x42001057#32, fun w => .vfmvFS (fieldVd w) (fieldVs2 w)⟩,
    ⟨0xFFF0707F#32, 0x42005057#32, fun w => .vfmvSF (fieldVd w) (fieldVs1 w)⟩,
    ⟨0xFC00707F#32, 0x38004057#32, fun w => .vslideupVx (fieldVd w) (fieldVs2 w) (fieldVs1 w) (fieldVm w)⟩,
    ⟨0xFC00707F#32, 0x38003057#32, fun w => .vslideupVi (fieldVd w) (fieldVs2 w) (fieldUimm w) (fieldVm w)⟩,
    ⟨0xFC00707F#32, 0x3C004057#32, fun w => .vslidedownVx (fieldVd w) (fieldVs2 w) (fieldVs1 w) (fieldVm w)⟩,
    ⟨0xFC00707F#32, 0x3C003057#32, fun w => .vslidedownVi (fieldVd w) (fieldVs2 w) (fieldUimm w) (fieldVm w)⟩,
    ⟨0xFC00707F#32, 0x38006057#32, fun w => .vslide1upVx (fieldVd w) (fieldVs2 w) (fieldVs1 w) (fieldVm w)⟩,
    ⟨0xFC00707F#32, 0x3C006057#32, fun w => .vslide1downVx (fieldVd w) (fieldVs2 w) (fieldVs1 w) (fieldVm w)⟩,
    ⟨0xFC00707F#32, 0x30000057#32, fun w => .vrgatherVv (fieldVd w) (fieldVs2 w) (fieldVs1 w) (fieldVm w)⟩,
    ⟨0xFC00707F#32, 0x30004057#32, fun w => .vrgatherVx (fieldVd w) (fieldVs2 w) (fieldVs1 w) (fieldVm w)⟩,
    ⟨0xFC00707F#32, 0x30003057#32, fun w => .vrgatherVi (fieldVd w) (fieldVs2 w) (fieldUimm w) (fieldVm w)⟩,
    ⟨0xFE00707F#32, 0x5E002057#32, fun w => .vcompressVm (fieldVd w) (fieldVs2 w) (fieldVs1 w)⟩,
    ⟨0xFE0FF07F#32, 0x9E003057#32, fun w => .vmv1rV (fieldVd w) (fieldVs2 w)⟩,
    ⟨0xFE0FF07F#32, 0x9E00B057#32, fun w => .vmv2rV (fieldVd w) (fieldVs2 w)⟩,
    ⟨0xFE0FF07F#32, 0x9E01B057#32, fun w => .vmv4rV (fieldVd w) (fieldVs2 w)⟩,
    ⟨0xFE0FF07F#32, 0x9E03B057#32, fun w => .vmv8rV (fieldVd w) (fieldVs2 w)⟩ ]

/-- The encodings the spec sets aside; executing one raises the illegal instruction exception (R74, R75). -/
inductive ReservedEncoding where
  /-- `vmv.x.s` with vm = 0 (R74) -/
  | maskedVmvXS
  /-- `vmv.s.x` with vm = 0 (R74) -/
  | maskedVmvSX
  /-- `vfmv.f.s` with vm = 0 (R74) -/
  | maskedVfmvFS
  /-- `vfmv.s.f` with vm = 0 (R74) -/
  | maskedVfmvSF
  /-- `vcompress.vm` with vm = 0 (R74) -/
  | maskedVcompress
  /-- funct6 100111 with funct3 011 and not a `vmv<nf>r.v`: vm = 0, simm[4:3] not 00, or nf in 3, 5, 6, 7 (R75) -/
  | wholeRegisterMove
deriving DecidableEq, Repr

/-- One reserved pattern. -/
structure ReservedRow where
  mask : IWord
  pattern : IWord
  name : ReservedEncoding

/-- The word fits this reserved pattern. -/
def ReservedRow.accepts (r : ReservedRow) (w : IWord) : Bool := w &&& r.mask == r.pattern

/-- The reserved patterns of R74 and R75. They are read after the opcode map: the last one covers the words of
`vmv<nf>r.v` too, which R75 excepts. -/
def reservedRows : List ReservedRow :=
  [ ⟨0xFE0FF07F#32, 0x40002057#32, .maskedVmvXS⟩,
    ⟨0xFFF0707F#32, 0x40006057#32, .maskedVmvSX⟩,
    ⟨0xFE0FF07F#32, 0x40001057#32, .maskedVfmvFS⟩,
    ⟨0xFFF0707F#32, 0x40005057#32, .maskedVfmvSF⟩,
    ⟨0xFE00707F#32, 0x5C002057#32, .maskedVcompress⟩,
    ⟨0xFC00707F#32, 0x9C003057#32, .wholeRegisterMove⟩ ]

/-- What a word decodes to. -/
inductive Decoded where
  /-- one of the 18 forms -/
  | instr (i : Instr)
  /-- an encoding the spec calls reserved (R74, R75) -/
  | reserved (r : ReservedEncoding)
  /-- a word the spec gives no meaning to (R76) -/
  | notInScope
  /-- fewer than the four bytes of one word -/
  | truncated
deriving DecidableEq, Repr

/-- Decodes one instruction word: the opcode map of R71, then the reserved patterns of R74 and R75, then R76. -/
def decodeWord (w : IWord) : Decoded :=
  match opRows.find? (fun r => r.accepts w) with
  | some r => .instr (r.build w)
  | none =>
    match reservedRows.find? (fun r => r.accepts w) with
    | some r => .reserved r.name
    | none => .notInScope

/-- The word whose bytes, lowest address first, are the given four (20_memory.md R52: little-endian). -/
def wordOfBytes (b0 b1 b2 b3 : Byte) : IWord := b3 ++ b2 ++ b1 ++ b0

/-- Byte k of a word, byte 0 holding bits 7:0 (20_memory.md R52). -/
def byteOfWord (w : IWord) (k : Nat) : Byte := w.extractLsb' (8 * k) 8

/-- The four bytes of a word, lowest address first. -/
def bytesOfWord (w : IWord) : List Byte := [byteOfWord w 0, byteOfWord w 1, byteOfWord w 2, byteOfWord w 3]

/-- Decodes the instruction at the head of a list of bytes, lowest address first. -/
def decode : List Byte → Decoded
  | b0 :: b1 :: b2 :: b3 :: _ => decodeWord (wordOfBytes b0 b1 b2 b3)
  | _ => .truncated

/-- The instruction the decoder reads from a word given as the opcode table numbers its bits: `nbits` bits of `w`,
the bits above them zero, laid out in memory order. -/
def decodeTableWord (nbits w : Nat) : Option Instr :=
  match decode (bytesOfWord (BitVec.ofNat 32 (w % 2 ^ nbits))) with
  | .instr i => some i
  | _ => none

/-- The vector-arithmetic format under major opcode OP-V, most significant field first: funct6, vm, vs2, bits 19:15,
funct3, bits 11:7, opcode 1010111 (30_encoding.md R66). -/
def opV (funct6 : BitVec 6) (vm : Bool) (vs2 mid : BitVec 5) (funct3 : BitVec 3) (vd : BitVec 5) : IWord :=
  funct6 ++ BitVec.ofBool vm ++ vs2 ++ mid ++ funct3 ++ vd ++ 0b1010111#7

/-- A register number as its 5-bit field (R66). -/
def regField (r : Fin 32) : BitVec 5 := BitVec.ofFin r

/-- The instruction's word: funct6 and funct3 by R66, R67 and R71, nf - 1 in simm by R69. -/
def encode : Instr → IWord
  | .vmvXS rd vs2 => opV 0b010000#6 true (regField vs2) 0b00000#5 0b010#3 (regField rd)
  | .vmvSX vd rs1 => opV 0b010000#6 true 0b00000#5 (regField rs1) 0b110#3 (regField vd)
  | .vfmvFS rd vs2 => opV 0b010000#6 true (regField vs2) 0b00000#5 0b001#3 (regField rd)
  | .vfmvSF vd rs1 => opV 0b010000#6 true 0b00000#5 (regField rs1) 0b101#3 (regField vd)
  | .vslideupVx vd vs2 rs1 vm => opV 0b001110#6 vm (regField vs2) (regField rs1) 0b100#3 (regField vd)
  | .vslideupVi vd vs2 uimm vm => opV 0b001110#6 vm (regField vs2) uimm 0b011#3 (regField vd)
  | .vslidedownVx vd vs2 rs1 vm => opV 0b001111#6 vm (regField vs2) (regField rs1) 0b100#3 (regField vd)
  | .vslidedownVi vd vs2 uimm vm => opV 0b001111#6 vm (regField vs2) uimm 0b011#3 (regField vd)
  | .vslide1upVx vd vs2 rs1 vm => opV 0b001110#6 vm (regField vs2) (regField rs1) 0b110#3 (regField vd)
  | .vslide1downVx vd vs2 rs1 vm => opV 0b001111#6 vm (regField vs2) (regField rs1) 0b110#3 (regField vd)
  | .vrgatherVv vd vs2 vs1 vm => opV 0b001100#6 vm (regField vs2) (regField vs1) 0b000#3 (regField vd)
  | .vrgatherVx vd vs2 rs1 vm => opV 0b001100#6 vm (regField vs2) (regField rs1) 0b100#3 (regField vd)
  | .vrgatherVi vd vs2 uimm vm => opV 0b001100#6 vm (regField vs2) uimm 0b011#3 (regField vd)
  | .vcompressVm vd vs2 vs1 => opV 0b010111#6 true (regField vs2) (regField vs1) 0b010#3 (regField vd)
  | .vmv1rV vd vs2 => opV 0b100111#6 true (regField vs2) 0b00000#5 0b011#3 (regField vd)
  | .vmv2rV vd vs2 => opV 0b100111#6 true (regField vs2) 0b00001#5 0b011#3 (regField vd)
  | .vmv4rV vd vs2 => opV 0b100111#6 true (regField vs2) 0b00011#5 0b011#3 (regField vd)
  | .vmv8rV vd vs2 => opV 0b100111#6 true (regField vs2) 0b00111#5 0b011#3 (regField vd)

end Sys2Proof
end

