-- ==== Sys2Proof/Machine/State.lean ====
section
/-! DEFINITION. The machine's state (10_state.md R20), the reasons a step can stop, and the state after reset.
Register widths follow the run's parameters `cfg`, which are part of the state and never change (log entry 1). -/

namespace Sys2Proof.Machine

/-- Why the machine stops with a fault. -/
inductive Fault where
  /-- The illegal instruction exception, the only exception in scope, as 60_exceptions.md R182 has it: terminal,
  carrying the pc and the 32-bit word of the instruction, every piece of state as before the instruction.
  Raised by a meaning whose legality check fails and by a step on a reserved encoding (R181). Safe: the machine
  stops where a real hart would go on in a handler (log entry 7). -/
  | illegalInstruction (pc : Nat) (word : IWord)
deriving DecidableEq, Repr

/-- Why the model declines a step: neither a step nor a fault. -/
inductive Refusal where
  /-- An instruction of the opcode table that has no meaning yet. Safe. No arm of `exec` answers it. -/
  | notModelled (mnemonic : String)
  /-- The fetched word is none of the 18 forms and none of their reserved neighbours (30_encoding.md R76). Raised by
  `step`. Safe: the spec gives such a word no meaning (log entry 9). -/
  | notInScope (pc : Nat) (word : IWord)
  /-- There is no instruction word at pc: the run has ended (70_reset_and_hazards.md R206). Raised by `step`. Safe:
  nothing is said of what a hart does after its last vector instruction (log entry 3). -/
  | endOfText (pc : Nat)
  /-- Launch premise P_align fails: pc is not a multiple of 4 (R202). Raised by `step`. Safe (log entry 5). -/
  | misalignedPc (pc : Nat)
  /-- Launch premise P_vlmax fails: vl > VLMAX while vill is clear (R29, R202). Raised by `step`. Safe
  (log entry 5). -/
  | vlAboveVlmax (vl vlmax : Nat)
  /-- Launch premise P_align fails: the program text from pc on runs past address 2^XLEN - 1 (R22, R202). Raised by `step`.
  Safe (log entry 5). -/
  | textWraps (pc : Nat)
deriving DecidableEq, Repr

/-- LMUL, the register-group multiplier: 1, 2, 4 or 8 (10_state.md R27, decision D6). -/
inductive Lmul where
  | m1
  | m2
  | m4
  | m8
deriving DecidableEq, Repr

/-- The number of registers in a group. -/
def Lmul.regs : Lmul → Nat
  | .m1 => 1
  | .m2 => 2
  | .m4 => 4
  | .m8 => 8

/-- The program text: the listed bytes of the address space, addresses strictly rising (20_memory.md R51). An
unlisted address has no value. -/
abbrev Memory := List Host.Cell

/-- The architectural state (10_state.md R20), with the run's parameters and its program text. -/
structure State where
  /-- The implementation parameters (00_scope.md R4). -/
  cfg : Config
  /-- The program counter (R22). -/
  pc : BitVec cfg.xlen
  /-- The integer registers (R21). Read and written through `readX` and `setX`, which hold x[0] at zero. -/
  x : Vector (BitVec cfg.xlen) 32
  /-- The floating-point registers (R23). -/
  f : Vector (BitVec cfg.flen) 32
  /-- The vector registers (R24); `v[0]` is also the mask register (40_common.md R93). -/
  v : Vector (BitVec cfg.vlen) 32
  /-- The vector length (R25). -/
  vl : BitVec cfg.xlen
  /-- The index of the first element to process (R26). -/
  vstart : BitVec cfg.xlen
  /-- The SEW field of vtype (R27): SEW = 8 * 2 ^ vsew, at most ELEN. -/
  vsew : Fin (cfg.elenLog + 1)
  /-- The LMUL field of vtype (R27). -/
  lmul : Lmul
  /-- The vill field of vtype (R27). -/
  vill : Bool
  /-- The program text (20_memory.md R51). -/
  mem : Memory
deriving DecidableEq, Repr

/-- The parameters of the state after reset. DESIGN CHOICE (log entry 1): the values of the spec's worked examples
and its recommended mask layout. -/
def resetConfig : Config :=
  { xwidth := .w64, fwidth := .w64, elenLog := 3, vlenLog := 1, maskLayout := .oneBit }

/-- The machine after reset. x[0] is zero (10_state.md R21, R36); the spec gives no other reset value, and every other
field holds the value named in log entry 2 (DESIGN CHOICE, unsafe). No program text is listed (log entry 3). -/
def State.reset : State :=
  { cfg := resetConfig
    pc := 0
    x := Vector.replicate 32 0
    f := Vector.replicate 32 0
    v := Vector.replicate 32 0
    vl := 0
    vstart := 0
    vsew := 0
    lmul := .m1
    vill := false
    mem := [] }

end Sys2Proof.Machine
end

