-- ==== Sys2Proof/Machine/Operands.lean ====
section
/-! DEFINITION. Operand forms: the widths and counts the vtype setting gives, element addressing in a register group
(40_common.md R90), scalar registers and how a scalar is fitted to a width (R101, 42_fp_scalar_move.md R119). -/

namespace Sys2Proof.Machine

/-- SEW, the element width in bits (10_state.md R27). -/
def State.sew (s : State) : Nat := 2 ^ (3 + s.vsew.val)

/-- VLMAX = LMUL * VLEN / SEW, the number of elements in a register group (10_state.md R28). -/
def State.vlmax (s : State) : Nat := s.lmul.regs * s.cfg.vlen / s.sew

/-- Vector register number `r`. The element operations compute register numbers; those of a legal group are below 32
(40_common.md R91), and a number past 31 reads as zero and is never written (log entry 11). -/
def readReg {n : Nat} (V : Vector (BitVec n) 32) (r : Nat) : BitVec n :=
  if h : r < 32 then V[r] else 0

/-- `Elem(b, i)` of 40_common.md R90 in a register file of n-bit registers: with EPR = n / SEW, bits
`(i mod EPR) * SEW` upward of register `b + i div EPR`. -/
def readElem {n : Nat} (sew : Nat) (V : Vector (BitVec n) 32) (b i : Nat) : BitVec sew :=
  (readReg V (b + i / (n / sew))).extractLsb' (i % (n / sew) * sew) sew

/-- A register's value with the `sew` bits from bit `off` replaced by `e`, every other bit as before (R90). -/
def insertBits {n sew : Nat} (r : BitVec n) (off : Nat) (e : BitVec sew) : BitVec n :=
  (r &&& ~~~((BitVec.allOnes sew).setWidth n <<< off)) ||| (e.setWidth n <<< off)

/-- `Elem(b, i) <- e` of 40_common.md R90. -/
def writeElem {n : Nat} (sew : Nat) (V : Vector (BitVec n) 32) (b i : Nat) (e : BitVec sew) : Vector (BitVec n) 32 :=
  V.setIfInBounds (b + i / (n / sew)) (insertBits (readReg V (b + i / (n / sew))) (i % (n / sew) * sew) e)

/-- Element i of the group whose lowest register is `v[b]`, in the state's registers. -/
def State.elem (s : State) (b : VReg) (i : Nat) : BitVec s.sew := readElem s.sew s.v b.val i

/-- `x[r]`, with x[0] reading as zero (10_state.md R21). -/
def State.readX (s : State) (r : XReg) : BitVec s.cfg.xlen := if r = 0 then 0 else s.x[r]

/-- `f[r]` (10_state.md R23). -/
def State.readF (s : State) (r : FReg) : BitVec s.cfg.flen := s.f[r]

/-- A scalar operand as the unsigned integer of all its XLEN bits, not truncated to SEW (R101, 43_slide.md R132). -/
def State.xIndex (s : State) (r : XReg) : Nat := (s.readX r).toNat

/-- A value fitted to `n` bits: its low `n` bits, or extended with zeros. -/
def fitZero {w : Nat} (n : Nat) (a : BitVec w) : BitVec n := a.setWidth n

/-- A value fitted to `n` bits: its low `n` bits, or extended with copies of its top bit. -/
def fitSign {w : Nat} (n : Nat) (a : BitVec w) : BitVec n := a.signExtend n

/-- A value fitted to `n` bits: its low `n` bits, or extended with ones (NaN boxing as the pure bit operation of
42_fp_scalar_move.md R119). -/
def fitOnes {w : Nat} (n : Nat) (a : BitVec w) : BitVec n := a.setWidth n ||| (BitVec.allOnes n <<< w)

end Sys2Proof.Machine
end

