-- ==== Sys2Proof/Machine/Flags.lean ====
section
/-! DEFINITION. Predicates. There are no condition codes or status flags in scope (10_state.md R31): the only predicate
state is a vector mask. Here stand the mask bit, the active elements, overlap and group alignment, from which the
legality checks of the instructions are made. -/

namespace Sys2Proof.Machine

/-- MLEN, the distance in bits between consecutive mask elements (00_scope.md R4, 40_common.md R93). -/
def State.mlen (s : State) : Nat :=
  match s.cfg.maskLayout with
  | .oneBit => 1
  | .sewOverLmul => s.sew / s.lmul.regs

/-- `MaskBit(r, i)`: bit `i * MLEN` of vector register r (40_common.md R93). -/
def State.maskBit (s : State) (r : VReg) (i : Nat) : Bool := (s.v[r]).getLsbD (i * s.mlen)

/-- `mask_on(i)`: the instruction is unmasked or mask element i of `v[0]` is set (40_common.md R94). -/
def State.maskOn (s : State) (vm : Bool) (i : Nat) : Bool := vm || s.maskBit 0 i

/-- Element i is active: in the body, `vstart <= i < vl`, and not masked off (40_common.md R94). -/
def State.active (s : State) (vm : Bool) (i : Nat) : Bool :=
  decide (s.vstart.toNat ≤ i) && decide (i < s.vl.toNat) && s.maskOn vm i

/-- `Overlap(a, na, b, nb)` of 40_common.md R92: the register ranges share at least one register. -/
def overlap (a na b nb : Nat) : Bool := decide (a < b + nb) && decide (b < a + na)

/-- The group operand's register number is a multiple of LMUL (40_common.md R91). -/
def State.aligned (s : State) (r : VReg) : Bool := r.val % s.lmul.regs == 0

/-- Two groups of LMUL registers overlap. -/
def State.groupsOverlap (s : State) (a b : VReg) : Bool := overlap a.val s.lmul.regs b.val s.lmul.regs

/-- A group of LMUL registers overlaps the single register r. -/
def State.groupHolds (s : State) (a r : VReg) : Bool := overlap a.val s.lmul.regs r.val 1

/-- The instruction is masked and its destination group contains `v[0]` (40_common.md R99). -/
def State.overwritesMask (s : State) (vd : VReg) (vm : Bool) : Bool := !vm && s.groupHolds vd 0

end Sys2Proof.Machine
end

