-- ==== Sys2Proof/Machine/Ops.lean ====
section
/-! DEFINITION. The named operations the meanings share: reading and writing the program text, writing registers and
register groups, completion, the illegal instruction exception, fetch and the launch premises. -/

namespace Sys2Proof.Machine

/-! ### The program text (20_memory.md R51) -/

/-- The byte listed at an address, if any. -/
def Memory.read : Memory → Nat → Option Byte
  | [], _ => none
  | (k, b) :: rest, a => if a = k then some b else Memory.read rest a

/-- Lists a byte at an address, keeping the addresses strictly rising. No instruction uses it (R50): it places a
program text. -/
def Memory.write : Memory → Nat → Byte → Memory
  | [], a, b => [(a, b)]
  | (k, c) :: rest, a, b =>
    if a < k then (a, b) :: (k, c) :: rest
    else if a = k then (a, b) :: rest
    else (k, c) :: Memory.write rest a b

/-- Lists consecutive bytes from an address up. -/
def Memory.writeBytes : Memory → Nat → List Byte → Memory
  | m, _, [] => m
  | m, a, b :: bs => Memory.writeBytes (Memory.write m a b) (a + 1) bs

/-- The canonical form: addresses strictly rising. An unlisted address has no value, so no entry equals what an unlisted
address reads as. -/
def Memory.wf : Memory → Bool
  | [] => true
  | [_] => true
  | (a, _) :: (b, c) :: rest => decide (a < b) && Memory.wf ((b, c) :: rest)

/-- How many consecutive addresses from `a` up are listed, in a memory of canonical form. -/
def Memory.textLength : Memory → Nat → Nat
  | [], _ => 0
  | (k, _) :: rest, a =>
    if k < a then Memory.textLength rest a
    else if k = a then 1 + Memory.textLength rest (a + 1)
    else 0

/-- `MemRead(pc, 4)`: the little-endian word at pc, when all four of its bytes are in the program text
(20_memory.md R51, R52). -/
def State.fetchWord (s : State) : Option IWord :=
  match s.mem.read s.pc.toNat, s.mem.read (s.pc.toNat + 1), s.mem.read (s.pc.toNat + 2), s.mem.read (s.pc.toNat + 3) with
  | some b0, some b1, some b2, some b3 => some (wordOfBytes b0 b1 b2 b3)
  | _, _, _, _ => none

/-- Places an instruction word at pc. -/
def State.placeWord (s : State) (w : IWord) : State :=
  { s with mem := s.mem.writeBytes s.pc.toNat (bytesOfWord w) }

/-- The program text from pc on runs past the last address, 2^XLEN - 1: its listed bytes reach that address and go on after it, listed
either at 2^XLEN itself or, wrapped, at address 0 (10_state.md R22, 70_reset_and_hazards.md R202, decision D22; log entry 5). -/
def State.textWraps (s : State) : Bool :=
  decide (2 ^ s.cfg.xlen ≤ s.pc.toNat + s.mem.textLength s.pc.toNat) &&
    ((s.mem.read 0).isSome || (s.mem.read (2 ^ s.cfg.xlen)).isSome)

/-- The launch premise of 70_reset_and_hazards.md R202 that fails, if one does: P_align and P_vlmax. P_vtype and P_params
hold of every `State` by its type, P_enabled is no state (log entries 5 and 6). P_vlmax is not asked for while vill is
set, as R202 permits. -/
def State.launchRefusal (s : State) : Option Refusal :=
  if s.pc.toNat % 4 ≠ 0 then some (.misalignedPc s.pc.toNat)
  else if s.vill = false ∧ s.vlmax < s.vl.toNat then some (.vlAboveVlmax s.vl.toNat s.vlmax)
  else if s.textWraps then some (.textWraps s.pc.toNat)
  else none

/-! ### Registers -/

/-- `x[r] <- a`, discarded when r = 0 (10_state.md R21). -/
def State.setX (s : State) (r : XReg) (a : BitVec s.cfg.xlen) : State :=
  { s with x := if r = 0 then s.x else s.x.set r a }

/-- `f[r] <- a` (10_state.md R23). -/
def State.setF (s : State) (r : FReg) (a : BitVec s.cfg.flen) : State := { s with f := s.f.set r a }

/-- `v[r] <- a`, all VLEN bits (10_state.md R24). -/
def State.setV (s : State) (r : VReg) (a : BitVec s.cfg.vlen) : State := { s with v := s.v.set r a }

/-- The register file with every element `i < count` of the group at `b` for which `new i` is some value replaced by that
value. `new` is computed from the registers before, so all writes take effect together (40_common.md R96). -/
def writeElems {n : Nat} (sew : Nat) (V : Vector (BitVec n) 32) (b count : Nat) (new : Nat → Option (BitVec sew)) :
    Vector (BitVec n) 32 :=
  (List.range count).foldl (fun W i => match new i with
    | some e => writeElem sew W b i e
    | none => W) V

/-- Replaces the elements of the destination group for which `new` gives a value; every other element, and every register
outside the group, is unchanged (40_common.md R90, R95). -/
def State.updateGroup (s : State) (vd : VReg) (new : Nat → Option (BitVec s.sew)) : State :=
  { s with v := writeElems s.sew s.v vd.val s.vlmax new }

/-- The register file with registers `b .. b + nf - 1` replaced by what registers `c .. c + nf - 1` held before
(46_whole_register_move.md R170). -/
def copyBlock {n : Nat} (V : Vector (BitVec n) 32) (nf b c : Nat) : Vector (BitVec n) 32 :=
  (List.range nf).foldl (fun W k => W.setIfInBounds (b + k) (readReg V (c + k))) V

/-- `v[vd + k] <- v[vs2 + k]` for k = 0 .. nf - 1, every source read before (46_whole_register_move.md R170). -/
def State.copyRegs (s : State) (nf : Nat) (vd vs2 : VReg) : State :=
  { s with v := copyBlock s.v nf vd.val vs2.val }

/-! ### Completion and the exception -/

/-- Completion bookkeeping: `vstart <- 0` and `pc <- pc + 4` modulo 2^XLEN (40_common.md R97, 10_state.md R22). -/
def State.complete (s : State) : State := { s with vstart := 0, pc := s.pc + 4 }

/-- `raise IllegalInstruction(word)`: taking the exception, the only one in scope. As 60_exceptions.md R182 has it the
outcome is terminal and carries pc and the word; no state is written, vstart included (R184), and there is no return
from it (R187). -/
def raiseIllegal (s : State) (word : IWord) : Host.Outcome State Fault Refusal :=
  .fault (.illegalInstruction s.pc.toNat word)

/-- The end of every meaning: with its legality checks passed, the instruction completes from the state `t` its writes
made of `s`; otherwise nothing is written and the exception reports the instruction's word (40_common.md R97, R100). -/
def completeIf (legal : Bool) (i : Instr) (s t : State) : Host.Outcome State Fault Refusal :=
  if legal then .next t.complete else raiseIllegal s (encode i)

end Sys2Proof.Machine
end

