-- ==== Sys2Proof/Machine/Compress.lean ====
section
/-! DEFINITION. The compress instruction (45_compress.md). -/

namespace Sys2Proof.Machine

/-- The checks of `vcompress.vm`: vtype valid, both groups aligned, vstart = 0, the destination group apart from the source
group and from the single mask register `vs1`, which needs no alignment (R160, R161). -/
def State.compressLegal (s : State) (vd vs2 vs1 : VReg) : Bool :=
  !s.vill && s.aligned vd && s.aligned vs2 && decide (s.vstart.toNat = 0) && !s.groupsOverlap vd vs2 && !s.groupHolds vd vs1

/-- The indices below vl whose mask element in `vs1` is set, in increasing order (R160). -/
def State.selected (s : State) (vs1 : VReg) : List Nat :=
  (List.range s.vlmax).filter fun i => decide (i < s.vl.toNat) && s.maskBit vs1 i

/-- Element j of the destination receives the element at the j-th selected index; the elements past the last selected one are
unchanged (R160). -/
def State.compress (s : State) (vd vs2 vs1 : VReg) : State :=
  s.updateGroup vd fun j => ((s.selected vs1)[j]?).map fun i => s.elem vs2 i

/-- `vcompress.vm vd, vs2, vs1` (R160, R161). -/
def execVcompressVm (vd vs2 vs1 : VReg) (s : State) : Host.Outcome State Fault Refusal :=
  completeIf (s.compressLegal vd vs2 vs1) (.vcompressVm vd vs2 vs1) s (s.compress vd vs2 vs1)

end Sys2Proof.Machine
end

