-- ==== Sys2Proof/Machine/FpScalarMove.lean ====
section
/-! DEFINITION. The floating-point scalar moves (42_fp_scalar_move.md): bit copies, no format examined, no SEW excluded
(R119, decision D29). They ignore LMUL: one register, any number. -/

namespace Sys2Proof.Machine

/-- `vfmv.f.s rd, vs2` (R120): element 0, truncated or extended with ONES to FLEN; vl and vstart are not consulted. -/
def execVfmvFS (rd : FReg) (vs2 : VReg) (s : State) : Host.Outcome State Fault Refusal :=
  completeIf (!s.vill) (.vfmvFS rd vs2) s (s.setF rd (fitOnes s.cfg.flen (s.elem vs2 0)))

/-- `vfmv.s.f vd, rs1` (R121): f[rs1] truncated (the box unchecked) or extended with ONES to SEW into element 0, every other
bit of the one register zeroed; nothing written when vstart >= vl. -/
def execVfmvSF (vd : VReg) (rs1 : FReg) (s : State) : Host.Outcome State Fault Refusal :=
  completeIf (!s.vill) (.vfmvSF vd rs1) s
    (if s.vstart.toNat < s.vl.toNat then s.setV vd (fitZero s.cfg.vlen (fitOnes s.sew (s.readF rs1))) else s)

end Sys2Proof.Machine
end

