-- ==== Sys2Proof/Machine/Gather.lean ====
section
/-! DEFINITION. The register gathers (44_gather.md). -/

namespace Sys2Proof.Machine

/-- The checks of `vrgather.vx` and `.vi`: vtype valid, both groups aligned, destination apart from the source and, when
masked, from `v[0]` (R151, R153). -/
def State.gatherLegal (s : State) (vd vs2 : VReg) (vm : Bool) : Bool :=
  !s.vill && s.aligned vd && s.aligned vs2 && !s.groupsOverlap vd vs2 && !s.overwritesMask vd vm

/-- The checks of `vrgather.vv`: those, and the index group aligned and apart from the destination (R151, R152). -/
def State.gatherIndexLegal (s : State) (vd vs2 vs1 : VReg) (vm : Bool) : Bool :=
  s.gatherLegal vd vs2 vm && s.aligned vs1 && !s.groupsOverlap vd vs1

/-- The element of `vs2` at an index: zero at or above VLMAX, whatever vl is (R150, 90_conflicts.md C2). -/
def State.gathered (s : State) (vs2 : VReg) (idx : Nat) : BitVec s.sew :=
  if s.vlmax ≤ idx then 0 else s.elem vs2 idx

/-- Active element i receives the element of `vs2` at index `idx i` (R151). -/
def State.gather (s : State) (vd vs2 : VReg) (idx : Nat → Nat) (vm : Bool) : State :=
  s.updateGroup vd fun i => if s.active vm i then some (s.gathered vs2 (idx i)) else none

/-- `vrgather.vv vd, vs2, vs1, vm` (R152): the indices are the SEW-bit elements of `vs1`, unsigned. -/
def execVrgatherVv (vd vs2 vs1 : VReg) (vm : Bool) (s : State) : Host.Outcome State Fault Refusal :=
  completeIf (s.gatherIndexLegal vd vs2 vs1 vm) (.vrgatherVv vd vs2 vs1 vm) s
    (s.gather vd vs2 (fun i => (s.elem vs1 i).toNat) vm)

/-- `vrgather.vx vd, vs2, rs1, vm` (R153): one index, all XLEN bits of x[rs1]. -/
def execVrgatherVx (vd vs2 : VReg) (rs1 : XReg) (vm : Bool) (s : State) : Host.Outcome State Fault Refusal :=
  completeIf (s.gatherLegal vd vs2 vm) (.vrgatherVx vd vs2 rs1 vm) s (s.gather vd vs2 (fun _ => s.xIndex rs1) vm)

/-- `vrgather.vi vd, vs2, uimm, vm` (R154). -/
def execVrgatherVi (vd vs2 : VReg) (uimm : Uimm) (vm : Bool) (s : State) : Host.Outcome State Fault Refusal :=
  completeIf (s.gatherLegal vd vs2 vm) (.vrgatherVi vd vs2 uimm vm) s (s.gather vd vs2 (fun _ => uimm.toNat) vm)

end Sys2Proof.Machine
end

