-- ==== Sys2Proof/Machine/IntScalarMove.lean ====
section
/-! DEFINITION. The integer scalar moves (41_int_scalar_move.md). They ignore LMUL: one register, any number. -/

namespace Sys2Proof.Machine

/-- `vmv.x.s rd, vs2` (R110): element 0, truncated or ZERO-extended to XLEN; vl and vstart are not consulted. -/
def execVmvXS (rd : XReg) (vs2 : VReg) (s : State) : Host.Outcome State Fault Refusal :=
  completeIf (!s.vill) (.vmvXS rd vs2) s (s.setX rd (fitZero s.cfg.xlen (s.elem vs2 0)))

/-- `vmv.s.x vd, rs1` (R111): x[rs1] truncated or ZERO-extended to SEW into element 0, every other bit of the one register
zeroed; nothing written when vstart >= vl. -/
def execVmvSX (vd : VReg) (rs1 : XReg) (s : State) : Host.Outcome State Fault Refusal :=
  completeIf (!s.vill) (.vmvSX vd rs1) s
    (if s.vstart.toNat < s.vl.toNat then s.setV vd (fitZero s.cfg.vlen (fitZero s.sew (s.readX rs1))) else s)

end Sys2Proof.Machine
end

