-- ==== Sys2Proof/Machine/Slide.lean ====
section
/-! DEFINITION. The slides (43_slide.md). Mask element i controls destination element i (R131); index arithmetic is over
unbounded integers (00_scope.md R7). -/

namespace Sys2Proof.Machine

/-- The checks of `vslideup` and `vslide1up`: vtype valid, both groups aligned, destination apart from the source and, when
masked, from `v[0]` (R133, R137, R139). -/
def State.slideUpLegal (s : State) (vd vs2 : VReg) (vm : Bool) : Bool :=
  !s.vill && s.aligned vd && s.aligned vs2 && !s.groupsOverlap vd vs2 && !s.overwritesMask vd vm

/-- The checks of `vslidedown` and `vslide1down`: the destination group may be the source group (R135, R138, R139). -/
def State.slideDownLegal (s : State) (vd vs2 : VReg) (vm : Bool) : Bool :=
  !s.vill && s.aligned vd && s.aligned vs2 && !s.overwritesMask vd vm

/-- The table of R133: active elements from max(vstart, OFFSET) on receive `vs2[i - OFFSET]`. -/
def State.slideUp (s : State) (vd vs2 : VReg) (offset : Nat) (vm : Bool) : State :=
  s.updateGroup vd fun i =>
    if s.active vm i && decide (offset ≤ i) then some (s.elem vs2 (i - offset)) else none

/-- The two tables of R135: active elements receive `vs2[i + OFFSET]`, or 0 where that index is not below VLMAX. -/
def State.slideDown (s : State) (vd vs2 : VReg) (offset : Nat) (vm : Bool) : State :=
  s.updateGroup vd fun i =>
    if s.active vm i then some (if i + offset < s.vlmax then s.elem vs2 (i + offset) else 0) else none

/-- The table of R137: active element 0 receives the scalar, active element i > 0 receives `vs2[i - 1]`. -/
def State.slide1Up (s : State) (vd vs2 : VReg) (scalar : BitVec s.sew) (vm : Bool) : State :=
  s.updateGroup vd fun i =>
    if s.active vm i then some (if i = 0 then scalar else s.elem vs2 (i - 1)) else none

/-- The table of R138: active element vl - 1 receives the scalar, an active element below it `vs2[i + 1]`. -/
def State.slide1Down (s : State) (vd vs2 : VReg) (scalar : BitVec s.sew) (vm : Bool) : State :=
  s.updateGroup vd fun i =>
    if s.active vm i then some (if i = s.vl.toNat - 1 then scalar else s.elem vs2 (i + 1)) else none

/-- `vslideup.vx vd, vs2, rs1, vm` (R133): OFFSET is all XLEN bits of x[rs1] (R132). -/
def execVslideupVx (vd vs2 : VReg) (rs1 : XReg) (vm : Bool) (s : State) : Host.Outcome State Fault Refusal :=
  completeIf (s.slideUpLegal vd vs2 vm) (.vslideupVx vd vs2 rs1 vm) s (s.slideUp vd vs2 (s.xIndex rs1) vm)

/-- `vslideup.vi vd, vs2, uimm, vm` (R134). -/
def execVslideupVi (vd vs2 : VReg) (uimm : Uimm) (vm : Bool) (s : State) : Host.Outcome State Fault Refusal :=
  completeIf (s.slideUpLegal vd vs2 vm) (.vslideupVi vd vs2 uimm vm) s (s.slideUp vd vs2 uimm.toNat vm)

/-- `vslidedown.vx vd, vs2, rs1, vm` (R135): OFFSET is all XLEN bits of x[rs1] (R132). -/
def execVslidedownVx (vd vs2 : VReg) (rs1 : XReg) (vm : Bool) (s : State) : Host.Outcome State Fault Refusal :=
  completeIf (s.slideDownLegal vd vs2 vm) (.vslidedownVx vd vs2 rs1 vm) s (s.slideDown vd vs2 (s.xIndex rs1) vm)

/-- `vslidedown.vi vd, vs2, uimm, vm` (R136). -/
def execVslidedownVi (vd vs2 : VReg) (uimm : Uimm) (vm : Bool) (s : State) : Host.Outcome State Fault Refusal :=
  completeIf (s.slideDownLegal vd vs2 vm) (.vslidedownVi vd vs2 uimm vm) s (s.slideDown vd vs2 uimm.toNat vm)

/-- `vslide1up.vx vd, vs2, rs1, vm` (R137): the scalar is truncated or SIGN-extended to SEW. -/
def execVslide1upVx (vd vs2 : VReg) (rs1 : XReg) (vm : Bool) (s : State) : Host.Outcome State Fault Refusal :=
  completeIf (s.slideUpLegal vd vs2 vm) (.vslide1upVx vd vs2 rs1 vm) s
    (s.slide1Up vd vs2 (fitSign s.sew (s.readX rs1)) vm)

/-- `vslide1down.vx vd, vs2, rs1, vm` (R138): the scalar is truncated or ZERO-extended to SEW (90_conflicts.md C7). -/
def execVslide1downVx (vd vs2 : VReg) (rs1 : XReg) (vm : Bool) (s : State) : Host.Outcome State Fault Refusal :=
  completeIf (s.slideDownLegal vd vs2 vm) (.vslide1downVx vd vs2 rs1 vm) s
    (s.slide1Down vd vs2 (fitZero s.sew (s.readX rs1)) vm)

end Sys2Proof.Machine
end

