-- ==== Sys2Proof/Machine/WholeMove.lean ====
section
/-! DEFINITION. The whole-register moves (46_whole_register_move.md): raw copies that ignore vl, vstart and vtype, vill
included (R170, 40_common.md R98). -/

namespace Sys2Proof.Machine

/-- `vmv1r.v vd, vs2` (R171). -/
def execVmv1rV (vd vs2 : VReg) (s : State) : Host.Outcome State Fault Refusal :=
  completeIf (wholeAligned 1 vd vs2) (.vmv1rV vd vs2) s (s.copyRegs 1 vd vs2)

/-- `vmv2r.v vd, vs2` (R172). -/
def execVmv2rV (vd vs2 : VReg) (s : State) : Host.Outcome State Fault Refusal :=
  completeIf (wholeAligned 2 vd vs2) (.vmv2rV vd vs2) s (s.copyRegs 2 vd vs2)

/-- `vmv4r.v vd, vs2` (R173). -/
def execVmv4rV (vd vs2 : VReg) (s : State) : Host.Outcome State Fault Refusal :=
  completeIf (wholeAligned 4 vd vs2) (.vmv4rV vd vs2) s (s.copyRegs 4 vd vs2)

/-- `vmv8r.v vd, vs2` (R174). -/
def execVmv8rV (vd vs2 : VReg) (s : State) : Host.Outcome State Fault Refusal :=
  completeIf (wholeAligned 8 vd vs2) (.vmv8rV vd vs2) s (s.copyRegs 8 vd vs2)

end Sys2Proof.Machine
end

