-- ==== Sys2Proof/Machine/Dispatch.lean ====
section
/-! DEFINITION. One arm per constructor of Instr, each one call of the instruction's meaning. -/

namespace Sys2Proof.Machine

/-- Executes one decoded instruction. -/
def exec (i : Instr) (s : State) : Host.Outcome State Fault Refusal :=
  match i with
  | .vmvXS rd vs2 => Sys2Proof.Machine.execVmvXS rd vs2 s
  | .vmvSX vd rs1 => Sys2Proof.Machine.execVmvSX vd rs1 s
  | .vfmvFS rd vs2 => Sys2Proof.Machine.execVfmvFS rd vs2 s
  | .vfmvSF vd rs1 => Sys2Proof.Machine.execVfmvSF vd rs1 s
  | .vslideupVx vd vs2 rs1 vm => Sys2Proof.Machine.execVslideupVx vd vs2 rs1 vm s
  | .vslideupVi vd vs2 uimm vm => Sys2Proof.Machine.execVslideupVi vd vs2 uimm vm s
  | .vslidedownVx vd vs2 rs1 vm => Sys2Proof.Machine.execVslidedownVx vd vs2 rs1 vm s
  | .vslidedownVi vd vs2 uimm vm => Sys2Proof.Machine.execVslidedownVi vd vs2 uimm vm s
  | .vslide1upVx vd vs2 rs1 vm => Sys2Proof.Machine.execVslide1upVx vd vs2 rs1 vm s
  | .vslide1downVx vd vs2 rs1 vm => Sys2Proof.Machine.execVslide1downVx vd vs2 rs1 vm s
  | .vrgatherVv vd vs2 vs1 vm => Sys2Proof.Machine.execVrgatherVv vd vs2 vs1 vm s
  | .vrgatherVx vd vs2 rs1 vm => Sys2Proof.Machine.execVrgatherVx vd vs2 rs1 vm s
  | .vrgatherVi vd vs2 uimm vm => Sys2Proof.Machine.execVrgatherVi vd vs2 uimm vm s
  | .vcompressVm vd vs2 vs1 => Sys2Proof.Machine.execVcompressVm vd vs2 vs1 s
  | .vmv1rV vd vs2 => Sys2Proof.Machine.execVmv1rV vd vs2 s
  | .vmv2rV vd vs2 => Sys2Proof.Machine.execVmv2rV vd vs2 s
  | .vmv4rV vd vs2 => Sys2Proof.Machine.execVmv4rV vd vs2 s
  | .vmv8rV vd vs2 => Sys2Proof.Machine.execVmv8rV vd vs2 s

end Sys2Proof.Machine
end

