-- ==== Sys2Proof/Machine/Step.lean ====
section
/-! DEFINITION. One step: the launch premises, fetch, decode, execute. -/

namespace Sys2Proof.Machine

/-- One step of the hart. A state that fails a launch premise is refused, not run (70_reset_and_hazards.md R202); with no word
at pc the run has ended (R206); a reserved encoding raises the exception (30_encoding.md R74, R75); a word outside the scope
is refused (R76); any other word is executed. -/
def step (s : State) : Host.Outcome State Fault Refusal :=
  match s.launchRefusal with
  | some r => .refused r
  | none =>
    match s.fetchWord with
    | none => .refused (.endOfText s.pc.toNat)
    | some w =>
      match decodeWord w with
      | .instr i => exec i s
      | .reserved _ => raiseIllegal s w
      | .notInScope => .refused (.notInScope s.pc.toNat w)
      | .truncated => .refused (.endOfText s.pc.toNat)

/-- The state with an instruction's table word placed at pc, where `step` fetches next. -/
def State.withFetchWord (s : State) (nbits w : Nat) : State := s.placeWord (BitVec.ofNat 32 (w % 2 ^ nbits))

end Sys2Proof.Machine
end

