-- ==== Sys2Proof/Safety.lean ====
section
/-! DEFINITION. The terms statements use: what makes an instruction legal, written from the spec's rules in terms of registers
and not of the meanings' checks; what it means that an instruction completes or raises the exception; the invariant. -/

namespace Sys2Proof

/-! ### Parts of an instruction -/

/-- The destination of the nine forms that write a masked body of elements: the slides and the gathers. -/
def Instr.bodyDestination : Instr → Option VReg
  | .vslideupVx vd _ _ _ => some vd
  | .vslideupVi vd _ _ _ => some vd
  | .vslidedownVx vd _ _ _ => some vd
  | .vslidedownVi vd _ _ _ => some vd
  | .vslide1upVx vd _ _ _ => some vd
  | .vslide1downVx vd _ _ _ => some vd
  | .vrgatherVv vd _ _ _ => some vd
  | .vrgatherVx vd _ _ _ => some vd
  | .vrgatherVi vd _ _ _ => some vd
  | .vmvXS _ _ => none
  | .vmvSX _ _ => none
  | .vfmvFS _ _ => none
  | .vfmvSF _ _ => none
  | .vcompressVm _ _ _ => none
  | .vmv1rV _ _ => none
  | .vmv2rV _ _ => none
  | .vmv4rV _ _ => none
  | .vmv8rV _ _ => none

/-- The six slides. -/
def Instr.isSlide : Instr → Bool
  | .vslideupVx _ _ _ _ => true
  | .vslideupVi _ _ _ _ => true
  | .vslidedownVx _ _ _ _ => true
  | .vslidedownVi _ _ _ _ => true
  | .vslide1upVx _ _ _ _ => true
  | .vslide1downVx _ _ _ _ => true
  | .vrgatherVv _ _ _ _ => false
  | .vrgatherVx _ _ _ _ => false
  | .vrgatherVi _ _ _ _ => false
  | .vmvXS _ _ => false
  | .vmvSX _ _ => false
  | .vfmvFS _ _ => false
  | .vfmvSF _ _ => false
  | .vcompressVm _ _ _ => false
  | .vmv1rV _ _ => false
  | .vmv2rV _ _ => false
  | .vmv4rV _ _ => false
  | .vmv8rV _ _ => false

/-- The vm field of a maskable form; the forms without one are always unmasked (30_encoding.md R79). -/
def Instr.unmasked : Instr → Bool
  | .vslideupVx _ _ _ vm => vm
  | .vslideupVi _ _ _ vm => vm
  | .vslidedownVx _ _ _ vm => vm
  | .vslidedownVi _ _ _ vm => vm
  | .vslide1upVx _ _ _ vm => vm
  | .vslide1downVx _ _ _ vm => vm
  | .vrgatherVv _ _ _ vm => vm
  | .vrgatherVx _ _ _ vm => vm
  | .vrgatherVi _ _ _ vm => vm
  | .vmvXS _ _ => true
  | .vmvSX _ _ => true
  | .vfmvFS _ _ => true
  | .vfmvSF _ _ => true
  | .vcompressVm _ _ _ => true
  | .vmv1rV _ _ => true
  | .vmv2rV _ _ => true
  | .vmv4rV _ _ => true
  | .vmv8rV _ _ => true

/-- The same instruction with vm = 1: the unmasked form of a maskable one. -/
def Instr.asUnmasked : Instr → Instr
  | .vslideupVx vd vs2 rs1 _ => .vslideupVx vd vs2 rs1 true
  | .vslideupVi vd vs2 uimm _ => .vslideupVi vd vs2 uimm true
  | .vslidedownVx vd vs2 rs1 _ => .vslidedownVx vd vs2 rs1 true
  | .vslidedownVi vd vs2 uimm _ => .vslidedownVi vd vs2 uimm true
  | .vslide1upVx vd vs2 rs1 _ => .vslide1upVx vd vs2 rs1 true
  | .vslide1downVx vd vs2 rs1 _ => .vslide1downVx vd vs2 rs1 true
  | .vrgatherVv vd vs2 vs1 _ => .vrgatherVv vd vs2 vs1 true
  | .vrgatherVx vd vs2 rs1 _ => .vrgatherVx vd vs2 rs1 true
  | .vrgatherVi vd vs2 uimm _ => .vrgatherVi vd vs2 uimm true
  | .vmvXS rd vs2 => .vmvXS rd vs2
  | .vmvSX vd rs1 => .vmvSX vd rs1
  | .vfmvFS rd vs2 => .vfmvFS rd vs2
  | .vfmvSF vd rs1 => .vfmvSF vd rs1
  | .vcompressVm vd vs2 vs1 => .vcompressVm vd vs2 vs1
  | .vmv1rV vd vs2 => .vmv1rV vd vs2
  | .vmv2rV vd vs2 => .vmv2rV vd vs2
  | .vmv4rV vd vs2 => .vmv4rV vd vs2
  | .vmv8rV vd vs2 => .vmv8rV vd vs2

end Sys2Proof

namespace Sys2Proof.Machine

/-! ### Register groups -/

/-- Register number r is one of the `na` registers from `a` up. -/
def InRange (a na r : Nat) : Prop := a ≤ r ∧ r < a + na

/-- Two register ranges share at least one register (40_common.md R92). -/
def ShareRegister (a na b nb : Nat) : Prop := ∃ r, InRange a na r ∧ InRange b nb r

/-- The register number is a multiple of LMUL (40_common.md R91). -/
def State.Grouped (s : State) (r : VReg) : Prop := s.lmul.regs ∣ r.val

/-- Two groups of LMUL registers share no register. -/
def State.Apart (s : State) (a b : VReg) : Prop := ¬ ShareRegister a.val s.lmul.regs b.val s.lmul.regs

/-- The instruction is unmasked, or its destination group does not contain `v[0]` (40_common.md R99). -/
def State.MaskKept (s : State) (vd : VReg) (vm : Bool) : Prop :=
  vm = true ∨ ¬ ShareRegister vd.val s.lmul.regs 0 1

/-! ### When an instruction executes (43_slide.md R139, 44_gather.md R151, 45_compress.md R160, 46_whole_register_move.md R170) -/

/-- `vslideup` and `vslide1up` execute. -/
def State.SlideUpAllowed (s : State) (vd vs2 : VReg) (vm : Bool) : Prop :=
  s.vill = false ∧ s.Grouped vd ∧ s.Grouped vs2 ∧ s.Apart vd vs2 ∧ s.MaskKept vd vm

/-- `vslidedown` and `vslide1down` execute. -/
def State.SlideDownAllowed (s : State) (vd vs2 : VReg) (vm : Bool) : Prop :=
  s.vill = false ∧ s.Grouped vd ∧ s.Grouped vs2 ∧ s.MaskKept vd vm

/-- `vrgather.vx` and `vrgather.vi` execute. -/
def State.GatherAllowed (s : State) (vd vs2 : VReg) (vm : Bool) : Prop :=
  s.vill = false ∧ s.Grouped vd ∧ s.Grouped vs2 ∧ s.Apart vd vs2 ∧ s.MaskKept vd vm

/-- `vrgather.vv` executes. -/
def State.GatherIndexAllowed (s : State) (vd vs2 vs1 : VReg) (vm : Bool) : Prop :=
  s.vill = false ∧ s.Grouped vd ∧ s.Grouped vs2 ∧ s.Grouped vs1 ∧ s.Apart vd vs2 ∧ s.Apart vd vs1 ∧ s.MaskKept vd vm

/-- `vcompress.vm` executes. -/
def State.CompressAllowed (s : State) (vd vs2 vs1 : VReg) : Prop :=
  s.vill = false ∧ s.Grouped vd ∧ s.Grouped vs2 ∧ s.vstart.toNat = 0 ∧ s.Apart vd vs2 ∧
    ¬ ShareRegister vd.val s.lmul.regs vs1.val 1

/-- `vmv<nf>r.v` executes. -/
def WholeMoveAllowed (nf : Nat) (vd vs2 : VReg) : Prop := nf ∣ vd.val ∧ nf ∣ vs2.val

/-- The complete list of causes of 60_exceptions.md R181 that an instruction (not a reserved encoding) can meet, form by form:
vill (item 11), a group number not a multiple of LMUL (item 9), the overlaps (items 1 to 5, 7, 8), vstart for the compress
(item 6), a register number not a multiple of nf (item 10). -/
def IllegalCause (s : State) : Instr → Prop
  | .vmvXS _ _ => s.vill = true
  | .vmvSX _ _ => s.vill = true
  | .vfmvFS _ _ => s.vill = true
  | .vfmvSF _ _ => s.vill = true
  | .vslideupVx vd vs2 _ vm => ¬ s.SlideUpAllowed vd vs2 vm
  | .vslideupVi vd vs2 _ vm => ¬ s.SlideUpAllowed vd vs2 vm
  | .vslidedownVx vd vs2 _ vm => ¬ s.SlideDownAllowed vd vs2 vm
  | .vslidedownVi vd vs2 _ vm => ¬ s.SlideDownAllowed vd vs2 vm
  | .vslide1upVx vd vs2 _ vm => ¬ s.SlideUpAllowed vd vs2 vm
  | .vslide1downVx vd vs2 _ vm => ¬ s.SlideDownAllowed vd vs2 vm
  | .vrgatherVv vd vs2 vs1 vm => ¬ s.GatherIndexAllowed vd vs2 vs1 vm
  | .vrgatherVx vd vs2 _ vm => ¬ s.GatherAllowed vd vs2 vm
  | .vrgatherVi vd vs2 _ vm => ¬ s.GatherAllowed vd vs2 vm
  | .vcompressVm vd vs2 vs1 => ¬ s.CompressAllowed vd vs2 vs1
  | .vmv1rV _ _ => False
  | .vmv2rV vd vs2 => ¬ WholeMoveAllowed 2 vd vs2
  | .vmv4rV vd vs2 => ¬ WholeMoveAllowed 4 vd vs2
  | .vmv8rV vd vs2 => ¬ WholeMoveAllowed 8 vd vs2

/-! ### What an execution answers -/

/-- The instruction raises the illegal instruction exception: the terminal fault with this pc and the instruction's word
(60_exceptions.md R182). -/
def RaisesIllegal (i : Instr) (s : State) : Prop := exec i s = .fault (.illegalInstruction s.pc.toNat (encode i))

/-- The instruction completes with the vector registers `V`, every `x` and `f` register, vl, vtype, the parameters and the
program text as before, vstart 0 and pc advanced by 4 modulo 2^XLEN (40_common.md R97). -/
def CompletesWithV (i : Instr) (s : State) (V : Vector (BitVec s.cfg.vlen) 32) : Prop :=
  exec i s = .next { s with v := V, vstart := 0, pc := s.pc + 4 }

/-- The registers outside the group of LMUL registers at vd are those of the state. -/
def State.SameOutside (s : State) (vd : VReg) (V : Vector (BitVec s.cfg.vlen) 32) : Prop :=
  ∀ r : VReg, ¬ InRange vd.val s.lmul.regs r.val → V[r] = s.v[r]

/-- The instruction completes, element j of its destination group is `new j` for every j below VLMAX, and nothing else changes
but vstart and pc. The elements below VLMAX are all bits of the group (VLMAX * SEW = LMUL * VLEN). -/
def UpdatesGroup (i : Instr) (s : State) (vd : VReg) (new : Nat → BitVec s.sew) : Prop :=
  ∃ V : Vector (BitVec s.cfg.vlen) 32, CompletesWithV i s V ∧
    (∀ j, j < s.vlmax → readElem s.sew V vd.val j = new j) ∧ s.SameOutside vd V

/-- The instruction completes, register vd + k holds what register vs2 + k held for every k below nf, and no other vector
register changes. -/
def CopiesRegisters (i : Instr) (s : State) (nf : Nat) (vd vs2 : VReg) : Prop :=
  ∃ V : Vector (BitVec s.cfg.vlen) 32, CompletesWithV i s V ∧
    (∀ k, k < nf → readReg V (vd.val + k) = readReg s.v (vs2.val + k)) ∧
    (∀ r : VReg, ¬ InRange vd.val nf r.val → V[r] = s.v[r])

/-- Element j is in the body and its mask element is on (40_common.md R94). -/
abbrev State.Active (s : State) (vm : Bool) (j : Nat) : Prop :=
  s.vstart.toNat ≤ j ∧ j < s.vl.toNat ∧ (vm = true ∨ s.maskBit 0 j = true)

/-! ### Words -/

/-- Every word with this pattern under this mask decodes to the instruction `build` makes of it. -/
def WordsDecodeTo (mask pattern : IWord) (build : IWord → Instr) : Prop :=
  ∀ w : IWord, w &&& mask = pattern → decodeWord w = .instr (build w)

/-- Every word with this pattern under this mask is a reserved encoding. -/
def WordsReserved (mask pattern : IWord) : Prop :=
  ∀ w : IWord, w &&& mask = pattern → ∃ r, decodeWord w = .reserved r

/-- The word fits one of the 18 patterns of 30_encoding.md R71. -/
def FitsOpcodeMap (w : IWord) : Prop :=
  w &&& 0xFE0FF07F#32 ∈ [0x42002057#32, 0x42001057#32, 0x9E003057#32, 0x9E00B057#32, 0x9E01B057#32, 0x9E03B057#32] ∨
  w &&& 0xFFF0707F#32 ∈ [0x42006057#32, 0x42005057#32] ∨
  w &&& 0xFC00707F#32 ∈ [0x38004057#32, 0x38003057#32, 0x3C004057#32, 0x3C003057#32, 0x38006057#32, 0x3C006057#32,
    0x30000057#32, 0x30004057#32, 0x30003057#32] ∨
  w &&& 0xFE00707F#32 = 0x5E002057#32

/-- The word fits one of the reserved patterns of 30_encoding.md R74, or the pattern of R75 without being one of the four
`vmv<nf>r.v` words. -/
def FitsReserved (w : IWord) : Prop :=
  w &&& 0xFE0FF07F#32 ∈ [0x40002057#32, 0x40001057#32] ∨
  w &&& 0xFFF0707F#32 ∈ [0x40006057#32, 0x40005057#32] ∨
  w &&& 0xFE00707F#32 = 0x5C002057#32 ∨
  (w &&& 0xFC00707F#32 = 0x9C003057#32 ∧
    w &&& 0xFE0FF07F#32 ∉ [0x9E003057#32, 0x9E00B057#32, 0x9E01B057#32, 0x9E03B057#32])

/-! ### Launch and invariant -/

/-- The launch premises hold: the state may run (70_reset_and_hazards.md R202). -/
def State.Launchable (s : State) : Prop := s.launchRefusal = none

/-- The invariant: the cell behind x[0] holds zero (10_state.md R21), the program text has its canonical form, and the launch
premises hold (P_align, and vl <= VLMAX unless vill: 10_state.md R29). -/
def State.Inv (s : State) : Prop := s.x[0] = 0 ∧ s.mem.wf = true ∧ s.Launchable

end Sys2Proof.Machine
end

