-- ==== Sys2Proof/Certificates/Slice0/Obligations.lean ====
section
/-! DEFINITION. The statements about the model, for the provers. Each says the rule of spec/ it comes from; where a clause rests on
one of the spec's own decisions (D<n> of spec/92_eei_decisions.md), on what the spec supplies from general knowledge
(G<n> of spec/93_implementation_defined.md) or on a choice of the model (a log entry), the docstring names it. -/

open Sys2Proof Sys2Proof.Machine

/-! ### Encoding -/

/-- Decode and encode agree: every instruction, with every operand at every value its field admits, decodes from its word.
Field places, funct6 and funct3 are the spec's general knowledge (G1). -/
def Obligations.EveryInstructionDecodesFromItsEncoding : Prop :=
  ∀ i : Instr, decodeWord (encode i) = .instr i

/-- The other direction: a word that decodes to an instruction is that instruction's word, so no bit of it is dropped (G1). -/
def Obligations.DecodedWordIsItsInstructionsEncoding : Prop :=
  ∀ (w : IWord) (i : Instr), decodeWord w = .instr i → encode i = w

/-- The opcode map of R71: each of the 18 patterns decodes to its instruction with the operands of R66's fields, and a word decodes to
an instruction only if it fits one of the 18 (G1). -/
def Obligations.OpcodeMapDecodesExactlyTheTableRows : Prop :=
  WordsDecodeTo 0xFE0FF07F#32 0x42002057#32 (fun w => .vmvXS (fieldVd w) (fieldVs2 w)) ∧
  WordsDecodeTo 0xFFF0707F#32 0x42006057#32 (fun w => .vmvSX (fieldVd w) (fieldVs1 w)) ∧
  WordsDecodeTo 0xFE0FF07F#32 0x42001057#32 (fun w => .vfmvFS (fieldVd w) (fieldVs2 w)) ∧
  WordsDecodeTo 0xFFF0707F#32 0x42005057#32 (fun w => .vfmvSF (fieldVd w) (fieldVs1 w)) ∧
  WordsDecodeTo 0xFC00707F#32 0x38004057#32 (fun w => .vslideupVx (fieldVd w) (fieldVs2 w) (fieldVs1 w) (fieldVm w)) ∧
  WordsDecodeTo 0xFC00707F#32 0x38003057#32 (fun w => .vslideupVi (fieldVd w) (fieldVs2 w) (fieldUimm w) (fieldVm w)) ∧
  WordsDecodeTo 0xFC00707F#32 0x3C004057#32 (fun w => .vslidedownVx (fieldVd w) (fieldVs2 w) (fieldVs1 w) (fieldVm w)) ∧
  WordsDecodeTo 0xFC00707F#32 0x3C003057#32 (fun w => .vslidedownVi (fieldVd w) (fieldVs2 w) (fieldUimm w) (fieldVm w)) ∧
  WordsDecodeTo 0xFC00707F#32 0x38006057#32 (fun w => .vslide1upVx (fieldVd w) (fieldVs2 w) (fieldVs1 w) (fieldVm w)) ∧
  WordsDecodeTo 0xFC00707F#32 0x3C006057#32 (fun w => .vslide1downVx (fieldVd w) (fieldVs2 w) (fieldVs1 w) (fieldVm w)) ∧
  WordsDecodeTo 0xFC00707F#32 0x30000057#32 (fun w => .vrgatherVv (fieldVd w) (fieldVs2 w) (fieldVs1 w) (fieldVm w)) ∧
  WordsDecodeTo 0xFC00707F#32 0x30004057#32 (fun w => .vrgatherVx (fieldVd w) (fieldVs2 w) (fieldVs1 w) (fieldVm w)) ∧
  WordsDecodeTo 0xFC00707F#32 0x30003057#32 (fun w => .vrgatherVi (fieldVd w) (fieldVs2 w) (fieldUimm w) (fieldVm w)) ∧
  WordsDecodeTo 0xFE00707F#32 0x5E002057#32 (fun w => .vcompressVm (fieldVd w) (fieldVs2 w) (fieldVs1 w)) ∧
  WordsDecodeTo 0xFE0FF07F#32 0x9E003057#32 (fun w => .vmv1rV (fieldVd w) (fieldVs2 w)) ∧
  WordsDecodeTo 0xFE0FF07F#32 0x9E00B057#32 (fun w => .vmv2rV (fieldVd w) (fieldVs2 w)) ∧
  WordsDecodeTo 0xFE0FF07F#32 0x9E01B057#32 (fun w => .vmv4rV (fieldVd w) (fieldVs2 w)) ∧
  WordsDecodeTo 0xFE0FF07F#32 0x9E03B057#32 (fun w => .vmv8rV (fieldVd w) (fieldVs2 w)) ∧
  (∀ (w : IWord) (i : Instr), decodeWord w = .instr i → FitsOpcodeMap w)

/-- No word fits two rows of the opcode map (R72, an inference of the spec). -/
def Obligations.OpcodeMapRowsAreDisjoint : Prop :=
  opRows.Pairwise (fun a b => ∀ w : IWord, ¬ (a.accepts w = true ∧ b.accepts w = true))

/-- The fields of the vector-arithmetic format of R66 as numbers: vd or rd in bits 11:7, vs1 or rs1 or the immediate in 19:15, vs2 in
24:20, vm in bit 25 (G1). -/
def Obligations.OperandFieldsAreAtTheirPlaces : Prop :=
  ∀ w : IWord,
    (fieldVd w).val = w.toNat / 2 ^ 7 % 2 ^ 5 ∧
    (fieldVs1 w).val = w.toNat / 2 ^ 15 % 2 ^ 5 ∧
    (fieldUimm w).toNat = w.toNat / 2 ^ 15 % 2 ^ 5 ∧
    (fieldVs2 w).val = w.toNat / 2 ^ 20 % 2 ^ 5 ∧
    (fieldVm w = true ↔ w.toNat / 2 ^ 25 % 2 = 1)

/-- A few words of the spec's decoding table (95_test_vectors.md 2.7), one or more of every family. -/
def Obligations.SampleWordsDecodeAsListed : Prop :=
  decodeWord 0x422022D7#32 = .instr (.vmvXS 5 2) ∧
  decodeWord 0x4202E0D7#32 = .instr (.vmvSX 1 5) ∧
  decodeWord 0x422010D7#32 = .instr (.vfmvFS 1 2) ∧
  decodeWord 0x4200D1D7#32 = .instr (.vfmvSF 3 1) ∧
  decodeWord 0x3841B157#32 = .instr (.vslideupVi 2 4 3 false) ∧
  decodeWord 0x3E42E157#32 = .instr (.vslide1downVx 2 4 5 true) ∧
  decodeWord 0x322081D7#32 = .instr (.vrgatherVv 3 2 1 true) ∧
  decodeWord 0x5E102157#32 = .instr (.vcompressVm 2 1 0) ∧
  decodeWord 0x9EC0B557#32 = .instr (.vmv2rV 10 12) ∧
  decodeWord 0x422822D7#32 = .notInScope ∧
  decodeWord 0x00000013#32 = .notInScope

/-! ### Step -/

/-- A step runs the decoded instruction: in a state that may run, with word w at pc and w decoding to i, the step is exec of i, with
nothing added around it. -/
def Obligations.StepRunsTheDecodedInstruction : Prop :=
  ∀ (s : State) (w : IWord) (i : Instr), s.Launchable → s.fetchWord = some w → decodeWord w = .instr i → step s = exec i s

/-- The fetch of R51 and R52 reads the four bytes at pc, lowest address least significant, and finds no word where one of them is
missing (G10, D22). -/
def Obligations.FetchReadsFourBytesLittleEndian : Prop :=
  ∀ s : State,
    (∀ b0 b1 b2 b3 : Byte, s.mem.read s.pc.toNat = some b0 → s.mem.read (s.pc.toNat + 1) = some b1 →
      s.mem.read (s.pc.toNat + 2) = some b2 → s.mem.read (s.pc.toNat + 3) = some b3 →
      ∃ w : IWord, s.fetchWord = some w ∧
        w.toNat = b0.toNat + 2 ^ 8 * b1.toNat + 2 ^ 16 * b2.toNat + 2 ^ 24 * b3.toNat) ∧
    (∀ k, k < 4 → s.mem.read (s.pc.toNat + k) = none → s.fetchWord = none)

/-- A word placed at pc is the word fetched there, and placing it changes no byte outside its four and keeps the canonical form. -/
def Obligations.PlacedWordIsTheFetchedWord : Prop :=
  ∀ (s : State) (w : IWord),
    (s.placeWord w).fetchWord = some w ∧
    (∀ a, a < s.pc.toNat ∨ s.pc.toNat + 4 ≤ a → (s.placeWord w).mem.read a = s.mem.read a) ∧
    (s.mem.wf = true → (s.placeWord w).mem.wf = true)

/-- The reserved encodings of R74 and R75: executing one raises the illegal instruction exception, with pc and the word reported (the
spec's decisions D13 and D20; terminal fault: D23). -/
def Obligations.ReservedWordsRaiseIllegalInstruction : Prop :=
  ∀ (s : State) (w : IWord), s.Launchable → s.fetchWord = some w → FitsReserved w →
    step s = .fault (.illegalInstruction s.pc.toNat w)

/-- R76: a word that fits none of the 18 patterns and none of the reserved ones is refused by name, neither a fault nor a step (D38). -/
def Obligations.WordsOutsideTheScopeAreRefused : Prop :=
  ∀ (s : State) (w : IWord), s.Launchable → s.fetchWord = some w → ¬ FitsOpcodeMap w → ¬ FitsReserved w →
    step s = .refused (.notInScope s.pc.toNat w)

/-- With no word at pc the run has ended and the step is refused by name: the model's choice (log entry 3) for R206. -/
def Obligations.StepPastTheTextIsRefused : Prop :=
  ∀ s : State, s.Launchable → s.fetchWord = none → step s = .refused (.endOfText s.pc.toNat)

/-- R202: a state whose pc is no multiple of 4, whose vl exceeds VLMAX while vill is clear, or whose program text is listed from pc to the top of
the address space and on after it (at address 2^XLEN or wrapped at address 0), is refused, not run; and every other state of canonical text
may run, whatever vstart, vill and the registers hold. The model's choices: log entry 5. -/
def Obligations.FailedLaunchPremisesAreRefused : Prop :=
  ∀ s : State,
    (s.pc.toNat % 4 ≠ 0 → step s = .refused (.misalignedPc s.pc.toNat)) ∧
    (s.pc.toNat % 4 = 0 → s.vill = false → s.vlmax < s.vl.toNat → step s = .refused (.vlAboveVlmax s.vl.toNat s.vlmax)) ∧
    (s.pc.toNat % 4 = 0 → (s.vill = true ∨ s.vl.toNat ≤ s.vlmax) → s.mem.wf = true →
      (∀ a, s.pc.toNat ≤ a → a < 2 ^ s.cfg.xlen → (s.mem.read a).isSome = true) →
      ((s.mem.read 0).isSome = true ∨ (s.mem.read (2 ^ s.cfg.xlen)).isSome = true) →
      step s = .refused (.textWraps s.pc.toNat)) ∧
    (s.pc.toNat % 4 = 0 → (s.vill = true ∨ s.vl.toNat ≤ s.vlmax) → s.mem.wf = true →
      ((∃ a, s.pc.toNat ≤ a ∧ a < 2 ^ s.cfg.xlen ∧ s.mem.read a = none) ∨
        (s.mem.read 0 = none ∧ s.mem.read (2 ^ s.cfg.xlen) = none)) →
      s.Launchable)

/-- R182: a step that faults reports pc and the word that was fetched there, whether the word is a reserved encoding or an
instruction whose check fails (D23). -/
def Obligations.StepFaultReportsPcAndFetchedWord : Prop :=
  ∀ (s : State) (r : Fault), step s = .fault r →
    ∃ w : IWord, s.fetchWord = some w ∧ r = .illegalInstruction s.pc.toNat w

/-! ### State, invariant, whole-machine rules -/

/-- The state after reset: x[0] reads zero (R21, R36); every other value is the model's choice (log entries 1, 2 and 3), since the
spec gives none. -/
def Obligations.ResetStateHoldsTheLoggedValues : Prop :=
  State.reset.readX 0 = 0 ∧ (∀ r, State.reset.readX r = 0) ∧ (∀ r, State.reset.readF r = 0) ∧
  (∀ r : VReg, State.reset.v[r] = 0) ∧ State.reset.pc = 0 ∧ State.reset.vl = 0 ∧ State.reset.vstart = 0 ∧
  State.reset.sew = 8 ∧ State.reset.lmul.regs = 1 ∧ State.reset.vill = false ∧ (∀ a, State.reset.mem.read a = none) ∧
  State.reset.cfg.xlen = 64 ∧ State.reset.cfg.flen = 64 ∧ State.reset.cfg.elen = 64 ∧ State.reset.cfg.vlen = 128 ∧
  State.reset.mlen = 1

/-- The invariant holds after reset. -/
def Obligations.InvariantHoldsAtReset : Prop := State.reset.Inv

/-- Every step keeps the invariant: the cell behind x[0] stays zero, the program text keeps its canonical form, and the launch
premises go on holding (pc a multiple of 4, vl <= VLMAX unless vill, no text past the top of the address space). -/
def Obligations.EveryStepKeepsTheInvariant : Prop :=
  ∀ s t : State, s.Inv → step s = .next t → t.Inv

/-- Whatever executes, the parameters, vl, vtype and every byte of the program text stay as they are. -/
def Obligations.NoInstructionWritesVlVtypeOrMemory : Prop :=
  ∀ (i : Instr) (s t : State), exec i s = .next t →
    t.cfg = s.cfg ∧ t.vl.toNat = s.vl.toNat ∧ t.vsew.val = s.vsew.val ∧ t.lmul = s.lmul ∧ t.vill = s.vill ∧
    (∀ a, t.mem.read a = s.mem.read a) ∧ t.mem = s.mem

/-- Completion: every instruction that completes leaves vstart 0 and pc advanced by 4 modulo 2^XLEN (R97 and R22; the spec's decisions
D10 and D22, G6). -/
def Obligations.CompletionClearsVstartAndAdvancesPc : Prop :=
  ∀ (i : Instr) (s t : State), exec i s = .next t →
    t.vstart.toNat = 0 ∧ t.pc.toNat = (s.pc.toNat + 4) % 2 ^ s.cfg.xlen

/-- An x register changes only as the rd of `vmv.x.s`, an f register only as the rd of `vfmv.f.s`, and those two leave every vector
register as it is. -/
def Obligations.ScalarRegistersChangeOnlyByScalarMoves : Prop :=
  ∀ (i : Instr) (s t : State), exec i s = .next t →
    (∀ r : XReg, (∀ vs2, i ≠ .vmvXS r vs2) → (t.readX r).toNat = (s.readX r).toNat) ∧
    (∀ r : FReg, (∀ vs2, i ≠ .vfmvFS r vs2) → (t.readF r).toNat = (s.readF r).toNat) ∧
    (∀ rd vs2, i = .vmvXS rd vs2 ∨ i = .vfmvFS rd vs2 → ∀ r : VReg, (t.v[r]).toNat = (s.v[r]).toNat)

/-- x[0] reads as zero and a write to it is discarded; a write to another register reads back there and changes no other
(R21; the spec's decision D21, G2). -/
def Obligations.XZeroReadsZeroAndOthersHoldWhatWasWritten : Prop :=
  ∀ (s : State) (r q : XReg) (a : BitVec s.cfg.xlen),
    s.readX 0 = 0 ∧ s.setX 0 a = s ∧ (r ≠ 0 → (s.setX r a).readX r = a) ∧ (q ≠ r → (s.setX r a).readX q = s.readX q)

/-- An execution completes or raises the illegal instruction exception; nothing else, and no instruction is refused. -/
def Obligations.ExecutionCompletesOrRaisesIllegalInstruction : Prop :=
  ∀ (i : Instr) (s : State), (∃ t, exec i s = .next t) ∨ RaisesIllegal i s

/-- The exception is raised in exactly the cases of the spec's complete list, R181 items (1) to (11), whatever vl, vstart, offsets,
indices and scalars hold (items 7 to 11 are the spec's decisions D11, D12, D15, D16, D20). -/
def Obligations.IllegalInstructionExactlyForTheListedCauses : Prop :=
  ∀ (i : Instr) (s : State), RaisesIllegal i s ↔ IllegalCause s i

/-- An ill-formed instruction never completes: in every state it raises the illegal instruction exception. -/
def Obligations.IllFormedInstructionNeverCompletes : Prop :=
  ∀ (i : Instr) (s : State), i.wellFormed = false → RaisesIllegal i s

/-- A well-formed instruction completes in every state with vill clear, LMUL = 1 and vstart = 0. -/
def Obligations.WellFormedInstructionCompletesAtLmulOne : Prop :=
  ∀ (i : Instr) (s : State), i.wellFormed = true → s.vill = false → s.lmul = .m1 → s.vstart.toNat = 0 →
    ∃ t, exec i s = .next t

/-- k steps advance pc by 4k modulo 2^XLEN and leave the parameters, vl, vtype and the program text alone: the i-th step executes the
i-th word (R206). -/
def Obligations.RunAdvancesFourBytesPerStep : Prop :=
  ∀ (k : Nat) (s t : State), core.run k s = .next t →
    State.cfg t = s.cfg ∧ State.mem t = s.mem ∧ (State.pc t).toNat = (s.pc.toNat + 4 * k) % 2 ^ s.cfg.xlen ∧
    (State.vl t).toNat = s.vl.toNat ∧ (State.vsew t).val = s.vsew.val ∧ State.lmul t = s.lmul ∧ State.vill t = s.vill

/-- A run over n words takes at most n steps: when no byte is listed at pc + 4n, no more than n steps complete (R206). -/
def Obligations.RunOfTheTextTakesAtMostItsWords : Prop :=
  ∀ (k n : Nat) (s t : State), s.pc.toNat + 4 * n < 2 ^ s.cfg.xlen → s.mem.read (s.pc.toNat + 4 * n) = none →
    core.run k s = .next t → k ≤ n

/-! ### Parameters, elements, masks, overlap -/

/-- The parameter type covers the domains of R4 and nothing else: XLEN and FLEN are 32 or 64, ELEN is a power of two from 8 up,
VLEN a power of two of at least 64 and at least ELEN, MLEN has two layouts; and for every such choice of XLEN, FLEN, ELEN, VLEN and
the layout there is a `Config` with exactly those (D1, D2, D3, D9). -/
def Obligations.ParametersCoverTheirDomains : Prop :=
  (∀ c : Config, (c.xlen = 32 ∨ c.xlen = 64) ∧ (c.flen = 32 ∨ c.flen = 64) ∧ (∃ a, c.elen = 2 ^ a) ∧ 8 ≤ c.elen ∧
    (∃ b, c.vlen = 2 ^ b) ∧ 64 ≤ c.vlen ∧ c.elen ≤ c.vlen ∧
    (c.maskLayout = .oneBit ∨ c.maskLayout = .sewOverLmul)) ∧
  (∀ (xl fl a b : Nat) (l : MaskLayout), xl = 32 ∨ xl = 64 → fl = 32 ∨ fl = 64 → 8 ≤ 2 ^ a → 64 ≤ 2 ^ b → 2 ^ a ≤ 2 ^ b →
    ∃ c : Config, c.xlen = xl ∧ c.flen = fl ∧ c.maskLayout = l ∧ c.elen = 2 ^ a ∧ c.vlen = 2 ^ b)

/-- VLMAX = LMUL * VLEN / SEW (R28) is a power of two from 1 to VLEN, and its elements fill the group: VLMAX * SEW = LMUL * VLEN.
SEW is a power of two from 8 to ELEN (R27). General knowledge of the spec (G3), D5, D6, D7. -/
def Obligations.VlmaxElementsFillTheGroup : Prop :=
  ∀ s : State, s.vlmax * s.sew = s.lmul.regs * s.cfg.vlen ∧ (∃ k, s.vlmax = 2 ^ k) ∧ s.vlmax ≤ s.cfg.vlen ∧
    (∃ k, s.sew = 2 ^ k) ∧ 8 ≤ s.sew ∧ s.sew ≤ s.cfg.elen

/-- R90: element i of the group at b is the SEW bits from bit (i mod EPR) * SEW of register b + i div EPR; writing it replaces exactly those
bits and leaves every other bit of every register unchanged (layout: D8, G4). -/
def Obligations.ElementsLieAsAddressed : Prop :=
  ∀ (s : State) (b : VReg) (i : Nat) (e : BitVec s.sew) (r : VReg) (k : Nat), s.Grouped b → i < s.vlmax →
    k < s.cfg.vlen →
    let epr := s.cfg.vlen / s.sew
    (r.val = b.val + i / epr → i % epr * s.sew ≤ k → k < i % epr * s.sew + s.sew →
      (s.v[r]).getLsbD k = (s.elem b i).getLsbD (k - i % epr * s.sew) ∧
      ((writeElem s.sew s.v b.val i e)[r]).getLsbD k = e.getLsbD (k - i % epr * s.sew)) ∧
    (¬ (r.val = b.val + i / epr ∧ i % epr * s.sew ≤ k ∧ k < i % epr * s.sew + s.sew) →
      ((writeElem s.sew s.v b.val i e)[r]).getLsbD k = (s.v[r]).getLsbD k)

/-- R93: mask element i of register r is bit i * MLEN, MLEN is 1 or SEW / LMUL by the parameter and at least 1, and VLMAX mask elements fit
one register (D9, G5). -/
def Obligations.MaskElementsLieInOneRegister : Prop :=
  ∀ (s : State) (r : VReg) (i : Nat),
    (s.cfg.maskLayout = .oneBit → s.maskBit r i = (s.v[r]).getLsbD i) ∧
    (s.cfg.maskLayout = .sewOverLmul → s.maskBit r i = (s.v[r]).getLsbD (i * (s.sew / s.lmul.regs))) ∧
    1 ≤ s.mlen ∧ s.vlmax * s.mlen ≤ s.cfg.vlen

/-- R92: the overlap test holds exactly when two non-empty register ranges share a register; two aligned groups of LMUL registers share one
exactly when they are the same group (D12). -/
def Obligations.OverlapMeansASharedRegister : Prop :=
  (∀ a na b nb : Nat, 0 < na → 0 < nb → (overlap a na b nb = true ↔ ShareRegister a na b nb)) ∧
  (∀ (s : State) (a b : VReg), s.Grouped a → s.Grouped b → (¬ s.Apart a b ↔ a = b))

/-- R119: boxing is a bit operation. Extension by ones keeps the value's bits and sets every bit above them; fitting to fewer bits keeps the low
ones; and the two moves examine nothing else: registers that agree on the bits that are copied give the same next state, whatever the
others hold (no box is checked, no format is read). -/
def Obligations.OnesExtensionIsABitOperation : Prop :=
  (∀ (w n : Nat) (a : BitVec w) (k : Nat), k < n →
    (fitOnes n a).getLsbD k = if k < w then a.getLsbD k else true) ∧
  (∀ (s : State) (vd : VReg) (r q : FReg), s.vill = false →
    (∀ k, k < s.sew → k < s.cfg.flen → (s.readF r).getLsbD k = (s.readF q).getLsbD k) →
    ∃ t, exec (.vfmvSF vd r) s = .next t ∧ exec (.vfmvSF vd q) s = .next t) ∧
  (∀ (s : State) (rd : FReg) (a b : VReg), s.vill = false →
    (∀ k, k < s.sew → k < s.cfg.flen → (s.v[a]).getLsbD k = (s.v[b]).getLsbD k) →
    ∃ t, exec (.vfmvFS rd a) s = .next t ∧ exec (.vfmvFS rd b) s = .next t)

/-! ### Integer and floating-point scalar moves -/

/-- R110, `vmv.x.s`. Its words decode to it and its vm = 0 words are reserved; with vill set it raises the exception; otherwise it completes, x[rd]
(unless rd = 0) holding element 0, the low SEW bits of v[vs2], truncated or zero-extended to XLEN, whatever vl, vstart and LMUL are, and
nothing else changed but vstart and pc. Decisions of the spec: D11 (vill), D17 (vl, vstart), D13 (reserved). -/
def Obligations.VmvXSCopiesElementZeroZeroExtended : Prop :=
  WordsDecodeTo 0xFE0FF07F#32 0x42002057#32 (fun w => .vmvXS (fieldVd w) (fieldVs2 w)) ∧
  WordsReserved 0xFE0FF07F#32 0x40002057#32 ∧
  ∀ (s : State) (rd : XReg) (vs2 : VReg),
    (s.vill = true → RaisesIllegal (.vmvXS rd vs2) s) ∧
    (s.vill = false → ∃ a : BitVec s.cfg.xlen, a.toNat = (s.v[vs2]).toNat % 2 ^ s.sew % 2 ^ s.cfg.xlen ∧
      exec (.vmvXS rd vs2) s = .next { s with x := if rd = 0 then s.x else s.x.set rd a, vstart := 0, pc := s.pc + 4 })

/-- R111, `vmv.s.x`. With vill set it raises the exception; otherwise it completes: with vstart < vl all VLEN bits of v[vd] are the low SEW bits of
x[rs1], zero-extended, and with vstart >= vl no register changes; nothing else changed but vstart and pc. Decisions of the spec: D11, D13,
D18 (0 < vstart < vl is the full operation). -/
def Obligations.VmvSXWritesOneRegisterZeroExtended : Prop :=
  WordsDecodeTo 0xFFF0707F#32 0x42006057#32 (fun w => .vmvSX (fieldVd w) (fieldVs1 w)) ∧
  WordsReserved 0xFFF0707F#32 0x40006057#32 ∧
  ∀ (s : State) (vd : VReg) (rs1 : XReg),
    (s.vill = true → RaisesIllegal (.vmvSX vd rs1) s) ∧
    (s.vill = false → s.vstart.toNat < s.vl.toNat →
      ∃ a : BitVec s.cfg.vlen, a.toNat = (s.readX rs1).toNat % 2 ^ s.sew ∧ CompletesWithV (.vmvSX vd rs1) s (s.v.set vd a)) ∧
    (s.vill = false → s.vl.toNat ≤ s.vstart.toNat → CompletesWithV (.vmvSX vd rs1) s s.v)

/-- R120, `vfmv.f.s`. With vill set it raises the exception; otherwise it completes, f[rd] holding element 0 of v[vs2] truncated to FLEN or extended
with ones, whatever vl, vstart and LMUL are, and nothing else changed but vstart and pc. Decisions of the spec: D11, D13, D17, D29 (any SEW). -/
def Obligations.VfmvFSCopiesElementZeroBoxed : Prop :=
  WordsDecodeTo 0xFE0FF07F#32 0x42001057#32 (fun w => .vfmvFS (fieldVd w) (fieldVs2 w)) ∧
  WordsReserved 0xFE0FF07F#32 0x40001057#32 ∧
  ∀ (s : State) (rd : FReg) (vs2 : VReg),
    (s.vill = true → RaisesIllegal (.vfmvFS rd vs2) s) ∧
    (s.vill = false → ∃ a : BitVec s.cfg.flen,
      (∀ k, k < s.cfg.flen → a.getLsbD k = if k < s.sew then (s.v[vs2]).getLsbD k else true) ∧
      exec (.vfmvFS rd vs2) s = .next { s with f := s.f.set rd a, vstart := 0, pc := s.pc + 4 })

/-- R121, `vfmv.s.f`. With vill set it raises the exception; otherwise it completes: with vstart < vl the low SEW bits of v[vd] are f[rs1] truncated or
extended with ones and every other bit is zero, and with vstart >= vl no register changes; nothing else changed but vstart and pc. Decisions
of the spec: D11, D13, D18, D29. -/
def Obligations.VfmvSFWritesOneRegisterBoxed : Prop :=
  WordsDecodeTo 0xFFF0707F#32 0x42005057#32 (fun w => .vfmvSF (fieldVd w) (fieldVs1 w)) ∧
  WordsReserved 0xFFF0707F#32 0x40005057#32 ∧
  ∀ (s : State) (vd : VReg) (rs1 : FReg),
    (s.vill = true → RaisesIllegal (.vfmvSF vd rs1) s) ∧
    (s.vill = false → s.vstart.toNat < s.vl.toNat → ∃ a : BitVec s.cfg.vlen,
      (∀ k, k < s.cfg.vlen → a.getLsbD k =
        if k < s.sew then (if k < s.cfg.flen then (s.readF rs1).getLsbD k else true) else false) ∧
      CompletesWithV (.vfmvSF vd rs1) s (s.v.set vd a)) ∧
    (s.vill = false → s.vl.toNat ≤ s.vstart.toNat → CompletesWithV (.vfmvSF vd rs1) s s.v)

/-- With vtype valid, `vmv.x.s` and `vfmv.f.s` give the same value whatever vl, vstart and LMUL hold: R110 and R120 corner cases (the spec's decision
D17 for vl and vstart). -/
def Obligations.ScalarReadsIgnoreVlVstartAndLmul : Prop :=
  ∀ (s : State) (rx : XReg) (rf : FReg) (vs2 : VReg) (l s0 : BitVec s.cfg.xlen) (m : Lmul), s.vill = false →
    ∃ (X : Vector (BitVec s.cfg.xlen) 32) (F : Vector (BitVec s.cfg.flen) 32),
      exec (.vmvXS rx vs2) s = .next { s with x := X, vstart := 0, pc := s.pc + 4 } ∧
      exec (.vmvXS rx vs2) { s with vl := l, vstart := s0, lmul := m } =
        .next { s with vl := l, lmul := m, x := X, vstart := 0, pc := s.pc + 4 } ∧
      exec (.vfmvFS rf vs2) s = .next { s with f := F, vstart := 0, pc := s.pc + 4 } ∧
      exec (.vfmvFS rf vs2) { s with vl := l, vstart := s0, lmul := m } =
        .next { s with vl := l, lmul := m, f := F, vstart := 0, pc := s.pc + 4 }

/-! ### Slides -/

/-- R133, `vslideup.vx`. Illegal when vill, a group is misaligned, destination and source groups share a register, or masked over `v[0]`; otherwise it
completes with the table of the rule, OFFSET = x[rs1] unsigned in full: element j with max(vstart, OFFSET) <= j < vl and its mask element on is
vs2[j - OFFSET], every other element and register unchanged. Decisions of the spec: D11, D12, D32. -/
def Obligations.VslideupVxMovesElementsUp : Prop :=
  WordsDecodeTo 0xFC00707F#32 0x38004057#32 (fun w => .vslideupVx (fieldVd w) (fieldVs2 w) (fieldVs1 w) (fieldVm w)) ∧
  ∀ (s : State) (vd vs2 : VReg) (rs1 : XReg) (vm : Bool),
    (¬ s.SlideUpAllowed vd vs2 vm → RaisesIllegal (.vslideupVx vd vs2 rs1 vm) s) ∧
    (s.SlideUpAllowed vd vs2 vm → UpdatesGroup (.vslideupVx vd vs2 rs1 vm) s vd fun j =>
      if max s.vstart.toNat (s.readX rs1).toNat ≤ j ∧ j < s.vl.toNat ∧ (vm = true ∨ s.maskBit 0 j = true)
      then s.elem vs2 (j - (s.readX rs1).toNat) else s.elem vd j)

/-- R134, `vslideup.vi`: as R133 with OFFSET the 5-bit immediate, unsigned. Decisions of the spec: D11, D12, D32. -/
def Obligations.VslideupViMovesElementsUp : Prop :=
  WordsDecodeTo 0xFC00707F#32 0x38003057#32 (fun w => .vslideupVi (fieldVd w) (fieldVs2 w) (fieldUimm w) (fieldVm w)) ∧
  ∀ (s : State) (vd vs2 : VReg) (uimm : Uimm) (vm : Bool),
    (¬ s.SlideUpAllowed vd vs2 vm → RaisesIllegal (.vslideupVi vd vs2 uimm vm) s) ∧
    (s.SlideUpAllowed vd vs2 vm → UpdatesGroup (.vslideupVi vd vs2 uimm vm) s vd fun j =>
      if max s.vstart.toNat uimm.toNat ≤ j ∧ j < s.vl.toNat ∧ (vm = true ∨ s.maskBit 0 j = true)
      then s.elem vs2 (j - uimm.toNat) else s.elem vd j)

/-- R135, `vslidedown.vx`. Illegal when vill, a group is misaligned, or masked over `v[0]`; otherwise it completes: an active element j is vs2[j + OFFSET] where
j + OFFSET < VLMAX and 0 where not, OFFSET = x[rs1] unsigned in full and the sum unbounded, source elements read before any is written; every other
element and register unchanged. Decisions of the spec: D11, D12, D16, D37. -/
def Obligations.VslidedownVxMovesElementsDown : Prop :=
  WordsDecodeTo 0xFC00707F#32 0x3C004057#32 (fun w => .vslidedownVx (fieldVd w) (fieldVs2 w) (fieldVs1 w) (fieldVm w)) ∧
  ∀ (s : State) (vd vs2 : VReg) (rs1 : XReg) (vm : Bool),
    (¬ s.SlideDownAllowed vd vs2 vm → RaisesIllegal (.vslidedownVx vd vs2 rs1 vm) s) ∧
    (s.SlideDownAllowed vd vs2 vm → UpdatesGroup (.vslidedownVx vd vs2 rs1 vm) s vd fun j =>
      if s.Active vm j
      then (if j + (s.readX rs1).toNat < s.vlmax then s.elem vs2 (j + (s.readX rs1).toNat) else 0) else s.elem vd j)

/-- R136, `vslidedown.vi`: as R135 with OFFSET the 5-bit immediate, unsigned. Decisions of the spec: D11, D12, D16, D37. -/
def Obligations.VslidedownViMovesElementsDown : Prop :=
  WordsDecodeTo 0xFC00707F#32 0x3C003057#32 (fun w => .vslidedownVi (fieldVd w) (fieldVs2 w) (fieldUimm w) (fieldVm w)) ∧
  ∀ (s : State) (vd vs2 : VReg) (uimm : Uimm) (vm : Bool),
    (¬ s.SlideDownAllowed vd vs2 vm → RaisesIllegal (.vslidedownVi vd vs2 uimm vm) s) ∧
    (s.SlideDownAllowed vd vs2 vm → UpdatesGroup (.vslidedownVi vd vs2 uimm vm) s vd fun j =>
      if s.Active vm j then (if j + uimm.toNat < s.vlmax then s.elem vs2 (j + uimm.toNat) else 0) else s.elem vd j)

/-- R137, `vslide1up.vx`. Illegal as `vslideup`; otherwise it completes: an active element 0 is the scalar, the low SEW bits of x[rs1] or x[rs1] SIGN-extended,
an active element j > 0 is vs2[j - 1], every other element (the tail included) and register unchanged. Decisions of the spec: D11, D12, D15. -/
def Obligations.Vslide1upVxInsertsSignExtendedScalar : Prop :=
  WordsDecodeTo 0xFC00707F#32 0x38006057#32 (fun w => .vslide1upVx (fieldVd w) (fieldVs2 w) (fieldVs1 w) (fieldVm w)) ∧
  ∀ (s : State) (vd vs2 : VReg) (rs1 : XReg) (vm : Bool),
    (¬ s.SlideUpAllowed vd vs2 vm → RaisesIllegal (.vslide1upVx vd vs2 rs1 vm) s) ∧
    (s.SlideUpAllowed vd vs2 vm → ∃ e : BitVec s.sew,
      (∀ k, k < s.sew → e.getLsbD k = (s.readX rs1).getLsbD (min k (s.cfg.xlen - 1))) ∧
      UpdatesGroup (.vslide1upVx vd vs2 rs1 vm) s vd fun j =>
        if s.Active vm j then (if j = 0 then e else s.elem vs2 (j - 1)) else s.elem vd j)

/-- R138, `vslide1down.vx`. Illegal as `vslidedown`; otherwise it completes: an active element vl - 1 is the scalar, the low SEW bits of x[rs1] or x[rs1]
ZERO-extended, an active element j below it is vs2[j + 1], source elements read before any is written; every other element and register unchanged.
vl <= VLMAX is the launch premise of R29. Decisions of the spec: D11, D12, D16, D37. -/
def Obligations.Vslide1downVxInsertsZeroExtendedScalar : Prop :=
  WordsDecodeTo 0xFC00707F#32 0x3C006057#32 (fun w => .vslide1downVx (fieldVd w) (fieldVs2 w) (fieldVs1 w) (fieldVm w)) ∧
  ∀ (s : State) (vd vs2 : VReg) (rs1 : XReg) (vm : Bool),
    (¬ s.SlideDownAllowed vd vs2 vm → RaisesIllegal (.vslide1downVx vd vs2 rs1 vm) s) ∧
    (s.SlideDownAllowed vd vs2 vm → s.vl.toNat ≤ s.vlmax → ∃ e : BitVec s.sew,
      e.toNat = (s.readX rs1).toNat % 2 ^ s.sew ∧
      UpdatesGroup (.vslide1downVx vd vs2 rs1 vm) s vd fun j =>
        if s.Active vm j then (if j + 1 = s.vl.toNat then e else s.elem vs2 (j + 1)) else s.elem vd j)

/-- R130: where vstart >= vl, a slide that passes its checks completes with every vector register unchanged, and one that fails them still
raises the exception; vl = 0 is such a case whatever vstart is. -/
def Obligations.SlidesPerformNoOperationPastVl : Prop :=
  ∀ (i : Instr) (s : State), i.isSlide = true → s.vl.toNat ≤ s.vstart.toNat ∨ s.vl.toNat = 0 →
    (¬ IllegalCause s i → CompletesWithV i s s.v) ∧ (IllegalCause s i → RaisesIllegal i s)

/-- R131: mask element j of `v[0]` controls the writing of destination element j of a slide. Executed masked, the slide writes what it writes
unmasked where mask element j is set, and leaves element j unchanged where it is not; a prestart or tail element is unchanged either way. -/
def Obligations.MaskElementControlsItsDestinationElement : Prop :=
  ∀ (s : State) (i : Instr) (vd : VReg),
    i.isSlide = true → i.unmasked = false → i.bodyDestination = some vd → ¬ IllegalCause s i →
    ∃ M F : Vector (BitVec s.cfg.vlen) 32, CompletesWithV i s M ∧ CompletesWithV i.asUnmasked s F ∧
      ∀ j, j < s.vlmax →
        (s.maskBit 0 j = true → readElem s.sew M vd.val j = readElem s.sew F vd.val j) ∧
        (s.maskBit 0 j = false → readElem s.sew M vd.val j = s.elem vd j) ∧
        (j < s.vstart.toNat ∨ s.vl.toNat ≤ j →
          readElem s.sew M vd.val j = s.elem vd j ∧ readElem s.sew F vd.val j = s.elem vd j)

/-- R95: a slide or gather that completes leaves the prestart, masked-off and tail elements of its destination unchanged, and the compress its
tail elements; the two moves to a vector register are the exceptions: they zero every element of their one register but element 0. The
elements below VLMAX are all bits of the group. -/
def Obligations.InactiveElementsAreUnchanged : Prop :=
  (∀ (i : Instr) (s : State) (vd : VReg), i.bodyDestination = some vd → ¬ IllegalCause s i →
    ∃ V : Vector (BitVec s.cfg.vlen) 32, CompletesWithV i s V ∧ ∀ j, j < s.vlmax →
      j < s.vstart.toNat ∨ s.vl.toNat ≤ j ∨ (i.unmasked = false ∧ s.maskBit 0 j = false) →
      readElem s.sew V vd.val j = s.elem vd j) ∧
  (∀ (s : State) (vd vs2 vs1 : VReg), s.CompressAllowed vd vs2 vs1 →
    ∃ V : Vector (BitVec s.cfg.vlen) 32, CompletesWithV (.vcompressVm vd vs2 vs1) s V ∧
      ∀ j, s.vl.toNat ≤ j → j < s.vlmax → readElem s.sew V vd.val j = s.elem vd j) ∧
  (∀ (s : State) (vd : VReg) (r : Fin 32) (i : Instr), i = .vmvSX vd r ∨ i = .vfmvSF vd r → s.vill = false →
    s.vstart.toNat < s.vl.toNat → ∃ V : Vector (BitVec s.cfg.vlen) 32, CompletesWithV i s V ∧
      ∀ j, 0 < j → j < s.cfg.vlen / s.sew → readElem s.sew V vd.val j = 0) ∧
  (∀ s : State, s.vlmax * s.sew = s.lmul.regs * s.cfg.vlen)

/-- R185's argument for leaving interrupts out (an inference of the spec; D24): a slide or gather stopped after element k - 1 and resumed with vstart = k
gives what the uninterrupted one gives. From any registers W whose elements below k are the final ones and whose others are the original ones,
the instruction with vstart = k ends in the very state the whole instruction ends in, destination over source included. -/
def Obligations.RestartFromVstartGivesTheUninterruptedResult : Prop :=
  ∀ (i : Instr) (s : State) (vd : VReg) (V W : Vector (BitVec s.cfg.vlen) 32) (k : BitVec s.cfg.xlen),
    i.bodyDestination = some vd → s.vl.toNat ≤ s.vlmax → CompletesWithV i s V →
    s.vstart.toNat ≤ k.toNat → k.toNat ≤ s.vl.toNat →
    (∀ j, j < s.vlmax → readElem s.sew W vd.val j = if j < k.toNat then readElem s.sew V vd.val j else s.elem vd j) →
    s.SameOutside vd W →
    exec i { s with v := W, vstart := k } = .next { s with v := V, vstart := 0, pc := s.pc + 4 }

/-! ### Gather -/

/-- R152, `vrgather.vv`. Illegal when vill, a group is misaligned, the destination shares a register with a source group, or masked over `v[0]`; otherwise it
completes: an active element j is 0 where the index, element j of vs1 unsigned, is not below VLMAX, and vs2[index] where it is, whatever vl is; every other
element and register unchanged. Decisions of the spec: D11, D12, D19, D28. -/
def Obligations.VrgatherVvSelectsByIndexElements : Prop :=
  WordsDecodeTo 0xFC00707F#32 0x30000057#32 (fun w => .vrgatherVv (fieldVd w) (fieldVs2 w) (fieldVs1 w) (fieldVm w)) ∧
  ∀ (s : State) (vd vs2 vs1 : VReg) (vm : Bool),
    (¬ s.GatherIndexAllowed vd vs2 vs1 vm → RaisesIllegal (.vrgatherVv vd vs2 vs1 vm) s) ∧
    (s.GatherIndexAllowed vd vs2 vs1 vm → UpdatesGroup (.vrgatherVv vd vs2 vs1 vm) s vd fun j =>
      if s.Active vm j
      then (if s.vlmax ≤ (s.elem vs1 j).toNat then 0 else s.elem vs2 (s.elem vs1 j).toNat) else s.elem vd j)

/-- R153, `vrgather.vx`: as the rule of `.vv` with one index for every element, x[rs1] unsigned in full, and no vs1. Decisions of the spec: D11, D12, D19. -/
def Obligations.VrgatherVxSplatsTheIndexedElement : Prop :=
  WordsDecodeTo 0xFC00707F#32 0x30004057#32 (fun w => .vrgatherVx (fieldVd w) (fieldVs2 w) (fieldVs1 w) (fieldVm w)) ∧
  ∀ (s : State) (vd vs2 : VReg) (rs1 : XReg) (vm : Bool),
    (¬ s.GatherAllowed vd vs2 vm → RaisesIllegal (.vrgatherVx vd vs2 rs1 vm) s) ∧
    (s.GatherAllowed vd vs2 vm → UpdatesGroup (.vrgatherVx vd vs2 rs1 vm) s vd fun j =>
      if s.Active vm j
      then (if s.vlmax ≤ (s.readX rs1).toNat then 0 else s.elem vs2 (s.readX rs1).toNat) else s.elem vd j)

/-- R154, `vrgather.vi`: as R153 with the 5-bit immediate, unsigned, as the index. Decisions of the spec: D11, D12, D19. -/
def Obligations.VrgatherViSplatsTheIndexedElement : Prop :=
  WordsDecodeTo 0xFC00707F#32 0x30003057#32 (fun w => .vrgatherVi (fieldVd w) (fieldVs2 w) (fieldUimm w) (fieldVm w)) ∧
  ∀ (s : State) (vd vs2 : VReg) (uimm : Uimm) (vm : Bool),
    (¬ s.GatherAllowed vd vs2 vm → RaisesIllegal (.vrgatherVi vd vs2 uimm vm) s) ∧
    (s.GatherAllowed vd vs2 vm → UpdatesGroup (.vrgatherVi vd vs2 uimm vm) s vd fun j =>
      if s.Active vm j
      then (if s.vlmax ≤ uimm.toNat then 0 else s.elem vs2 uimm.toNat) else s.elem vd j)

/-! ### Compress -/

/-- R160, `vcompress.vm`. Its vm = 0 words are reserved. Illegal when vill, vd or vs2 is misaligned, vstart is not 0, or the destination shares a register with
vs2's group or the mask register vs1; otherwise it completes: each element i < vl of vs2 whose mask element in vs1 is set goes to the element of vd numbered by
how many set mask elements lie below i, the elements from the count of set mask elements up are unchanged, and so is every other register.
vl <= VLMAX is the launch premise of R29. Decisions of the spec: D11, D12, D13, D27. -/
def Obligations.VcompressVmPacksSelectedElements : Prop :=
  WordsDecodeTo 0xFE00707F#32 0x5E002057#32 (fun w => .vcompressVm (fieldVd w) (fieldVs2 w) (fieldVs1 w)) ∧
  WordsReserved 0xFE00707F#32 0x5C002057#32 ∧
  ∀ (s : State) (vd vs2 vs1 : VReg),
    (¬ s.CompressAllowed vd vs2 vs1 → RaisesIllegal (.vcompressVm vd vs2 vs1) s) ∧
    (s.CompressAllowed vd vs2 vs1 → s.vl.toNat ≤ s.vlmax → ∃ V : Vector (BitVec s.cfg.vlen) 32,
      CompletesWithV (.vcompressVm vd vs2 vs1) s V ∧
      (∀ i, i < s.vl.toNat → s.maskBit vs1 i = true →
        readElem s.sew V vd.val (Nat.count (fun k => s.maskBit vs1 k = true) i) = s.elem vs2 i) ∧
      (∀ j, Nat.count (fun k => s.maskBit vs1 k = true) s.vl.toNat ≤ j → j < s.vlmax →
        readElem s.sew V vd.val j = s.elem vd j) ∧
      s.SameOutside vd V)

/-- R161: `vcompress.vm` executed with vstart not 0 raises the illegal instruction exception, whatever its operands and the rest of the state; that outcome
is terminal and carries no new state, so nothing is written and vstart keeps its value. A `vcompress.vm` that completes started with vstart 0 and
ends with vstart 0: none stops part-way with another. -/
def Obligations.VcompressVmWithNonzeroVstartIsIllegal : Prop :=
  ∀ (s : State) (vd vs2 vs1 : VReg), (s.vstart.toNat ≠ 0 → RaisesIllegal (.vcompressVm vd vs2 vs1) s) ∧
    (∀ t, exec (.vcompressVm vd vs2 vs1) s = .next t → s.vstart.toNat = 0 ∧ t.vstart.toNat = 0)

/-! ### Whole-register moves -/

/-- R171, `vmv1r.v`: completes in every state, v[vd] holding all VLEN bits of the old v[vs2], nothing else changed but vstart and pc. -/
def Obligations.Vmv1rVCopiesOneRegister : Prop :=
  WordsDecodeTo 0xFE0FF07F#32 0x9E003057#32 (fun w => .vmv1rV (fieldVd w) (fieldVs2 w)) ∧
  ∀ (s : State) (vd vs2 : VReg), CompletesWithV (.vmv1rV vd vs2) s (s.v.set vd s.v[vs2])

/-- R172, `vmv2r.v`: illegal when a register number is odd (the spec's decision D20), otherwise copies two registers whole. -/
def Obligations.Vmv2rVCopiesTwoRegisters : Prop :=
  WordsDecodeTo 0xFE0FF07F#32 0x9E00B057#32 (fun w => .vmv2rV (fieldVd w) (fieldVs2 w)) ∧
  ∀ (s : State) (vd vs2 : VReg),
    (vd.val % 2 ≠ 0 ∨ vs2.val % 2 ≠ 0 → RaisesIllegal (.vmv2rV vd vs2) s) ∧
    (vd.val % 2 = 0 ∧ vs2.val % 2 = 0 → CopiesRegisters (.vmv2rV vd vs2) s 2 vd vs2)

/-- R173, `vmv4r.v`: illegal when a register number is no multiple of 4 (the spec's decision D20), otherwise copies four registers whole. -/
def Obligations.Vmv4rVCopiesFourRegisters : Prop :=
  WordsDecodeTo 0xFE0FF07F#32 0x9E01B057#32 (fun w => .vmv4rV (fieldVd w) (fieldVs2 w)) ∧
  ∀ (s : State) (vd vs2 : VReg),
    (vd.val % 4 ≠ 0 ∨ vs2.val % 4 ≠ 0 → RaisesIllegal (.vmv4rV vd vs2) s) ∧
    (vd.val % 4 = 0 ∧ vs2.val % 4 = 0 → CopiesRegisters (.vmv4rV vd vs2) s 4 vd vs2)

/-- R174, `vmv8r.v`: illegal when a register number is no multiple of 8 (the spec's decision D20), otherwise copies eight registers whole. -/
def Obligations.Vmv8rVCopiesEightRegisters : Prop :=
  WordsDecodeTo 0xFE0FF07F#32 0x9E03B057#32 (fun w => .vmv8rV (fieldVd w) (fieldVs2 w)) ∧
  ∀ (s : State) (vd vs2 : VReg),
    (vd.val % 8 ≠ 0 ∨ vs2.val % 8 ≠ 0 → RaisesIllegal (.vmv8rV vd vs2) s) ∧
    (vd.val % 8 = 0 ∧ vs2.val % 8 = 0 → CopiesRegisters (.vmv8rV vd vs2) s 8 vd vs2)

/-- R170: a whole-register move gives the same vector registers whatever vl, vstart, SEW, LMUL and vill hold, vill included (the spec's decision D20 for
vstart and vill). -/
def Obligations.WholeMovesIgnoreVectorControl : Prop :=
  ∀ (i : Instr) (s : State) (vd vs2 : VReg) (l s0 : BitVec s.cfg.xlen) (e : Fin (s.cfg.elenLog + 1)) (m : Lmul) (ill : Bool),
    i = .vmv1rV vd vs2 ∨ i = .vmv2rV vd vs2 ∨ i = .vmv4rV vd vs2 ∨ i = .vmv8rV vd vs2 → i.wellFormed = true →
    ∃ V : Vector (BitVec s.cfg.vlen) 32, CompletesWithV i s V ∧
      exec i { s with vl := l, vstart := s0, vsew := e, lmul := m, vill := ill } =
        .next { s with vl := l, vsew := e, lmul := m, vill := ill, v := V, vstart := 0, pc := s.pc + 4 }

/-- R77: `vmv<nf>r.v` with vd = vs2 (an aligned number) changes nothing except pc and vstart, and so does `vmv.x.s` with rd = x0 (where vtype is valid). -/
def Obligations.SameRegisterMovesAndXZeroDestinationsChangeNothing : Prop :=
  ∀ (s : State) (r vs2 : VReg),
    CompletesWithV (.vmv1rV r r) s s.v ∧
    (r.val % 2 = 0 → CompletesWithV (.vmv2rV r r) s s.v) ∧
    (r.val % 4 = 0 → CompletesWithV (.vmv4rV r r) s s.v) ∧
    (r.val % 8 = 0 → CompletesWithV (.vmv8rV r r) s s.v) ∧
    (s.vill = false → CompletesWithV (.vmvXS 0 vs2) s s.v)
end

