-- ==== Sys2Proof/Laws/Elements.lean ====
section
/-! SUPPORT. Elements of register groups: reading an element after elements were written, and what a register file is
determined by. Stated over a register file of n-bit registers with n = epr * sew. -/

namespace Sys2Proof.Machine

variable {n sew epr : Nat}

/-- Inserted bits, bit by bit. -/
theorem getLsbD_insertBits (r : BitVec n) (off : Nat) (e : BitVec sew) (j : Nat) :
    (insertBits r off e).getLsbD j =
      if off ≤ j ∧ j < off + sew then decide (j < n) && e.getLsbD (j - off) else r.getLsbD j := by
  by_cases hj : j < n
  · by_cases h1 : off ≤ j
    · by_cases h2 : j < off + sew
      · have h3 : ¬ j < off := by omega
        have h4 : j - off < sew := by omega
        simp [insertBits, hj, h1, h2, h3, h4]
      · have h3 : ¬ j < off := by omega
        have h4 : ¬ j - off < sew := by omega
        have h5 : e.getLsbD (j - off) = false := BitVec.getLsbD_of_ge _ _ (by omega)
        simp [insertBits, hj, h2, h3, h4, h5]
    · have h3 : j < off := by omega
      simp [insertBits, hj, h1, h3]
  · have h3 : r.getLsbD j = false := BitVec.getLsbD_of_ge _ _ (by omega)
    have h4 : (insertBits r off e).getLsbD j = false := BitVec.getLsbD_of_ge _ _ (by omega)
    simp [h3, h4, hj]

/-- Reading back inserted bits. -/
theorem extract_insertBits_same (r : BitVec n) (off : Nat) (e : BitVec sew) (h : off + sew ≤ n) :
    (insertBits r off e).extractLsb' off sew = e := by
  apply BitVec.eq_of_getLsbD_eq
  intro k hk
  have h1 : off + k < n := by omega
  rw [BitVec.getLsbD_extractLsb', getLsbD_insertBits]
  simp [hk, h1]

/-- Reading other bits after an insertion. -/
theorem extract_insertBits_other (r : BitVec n) (off off' : Nat) (e : BitVec sew)
    (h : off' + sew ≤ off ∨ off + sew ≤ off') :
    (insertBits r off e).extractLsb' off' sew = r.extractLsb' off' sew := by
  apply BitVec.eq_of_getLsbD_eq
  intro k hk
  have h1 : ¬ (off ≤ off' + k ∧ off' + k < off + sew) := by omega
  rw [BitVec.getLsbD_extractLsb', getLsbD_insertBits, BitVec.getLsbD_extractLsb', if_neg h1]

/-- A register of the file after one of them is replaced. -/
theorem readReg_setIfInBounds (V : Vector (BitVec n) 32) (k r : Nat) (a : BitVec n) :
    readReg (V.setIfInBounds k a) r = if k = r ∧ r < 32 then a else readReg V r := by
  unfold readReg
  by_cases hr : r < 32
  · by_cases hk : k = r
    · subst hk; simp [hr]
    · simp [hr, hk]
  · simp [hr]

/-- The registers other than the one an element lies in are unchanged by writing it. -/
theorem readReg_writeElem (V : Vector (BitVec n) 32) (b i : Nat) (e : BitVec sew) {r : Nat}
    (h : r ≠ b + i / (n / sew)) : readReg (writeElem sew V b i e) r = readReg V r := by
  rw [writeElem, readReg_setIfInBounds, if_neg (by omega)]

/-- An element written reads back. -/
theorem readElem_writeElem_same (V : Vector (BitVec n) 32) (b i : Nat) (e : BitVec sew)
    (hn : n = epr * sew) (hs : 0 < sew) (he : 0 < epr) (hi : b + i / epr < 32) :
    readElem sew (writeElem sew V b i e) b i = e := by
  have hd : n / sew = epr := by rw [hn]; exact Nat.mul_div_cancel _ hs
  have hm : i % epr < epr := Nat.mod_lt _ he
  have hle : i % epr * sew + sew ≤ n := by
    rw [hn]; calc i % epr * sew + sew = (i % epr + 1) * sew := by ring
      _ ≤ epr * sew := Nat.mul_le_mul_right _ hm
  unfold readElem writeElem
  rw [hd, readReg_setIfInBounds, if_pos ⟨rfl, hi⟩]
  exact extract_insertBits_same _ _ _ hle

/-- Writing an element leaves every other element of the group alone. -/
theorem readElem_writeElem_other (V : Vector (BitVec n) 32) (b i j : Nat) (e : BitVec sew)
    (hn : n = epr * sew) (hs : 0 < sew) (hij : i ≠ j) :
    readElem sew (writeElem sew V b i e) b j = readElem sew V b j := by
  have hd : n / sew = epr := by rw [hn]; exact Nat.mul_div_cancel _ hs
  unfold readElem writeElem
  rw [hd, readReg_setIfInBounds]
  split
  · next h =>
    have hq : i / epr = j / epr := by omega
    have hr : i % epr ≠ j % epr := by
      intro hr; apply hij; rw [← Nat.div_add_mod i epr, ← Nat.div_add_mod j epr, hq, hr]
    rw [show b + i / epr = b + j / epr by rw [hq]]
    apply extract_insertBits_other
    rcases Nat.lt_or_gt_of_ne hr with h' | h'
    · right
      calc i % epr * sew + sew = (i % epr + 1) * sew := by ring
        _ ≤ j % epr * sew := Nat.mul_le_mul_right _ h'
    · left
      calc j % epr * sew + sew = (j % epr + 1) * sew := by ring
        _ ≤ i % epr * sew := Nat.mul_le_mul_right _ h'
  · rfl

/-- One more element: the fold's last write. -/
theorem writeElems_succ (V : Vector (BitVec n) 32) (b count : Nat) (new : Nat → Option (BitVec sew)) :
    writeElems sew V b (count + 1) new =
      match new count with
      | some e => writeElem sew (writeElems sew V b count new) b count e
      | none => writeElems sew V b count new :=
  (congrArg (List.foldl _ V) List.range_succ).trans List.foldl_append

/-- All that `writeElems` does to the elements of its group: element j is the new value where there is one. -/
theorem readElem_writeElems (V : Vector (BitVec n) 32) (b count j : Nat) (new : Nat → Option (BitVec sew))
    (hn : n = epr * sew) (hs : 0 < sew) (he : 0 < epr) (hb : ∀ i, i < count → b + i / epr < 32) :
    readElem sew (writeElems sew V b count new) b j =
      if j < count then (new j).getD (readElem sew V b j) else readElem sew V b j := by
  induction count with
  | zero => simp [writeElems]
  | succ count ih =>
    have ih := ih (fun i hi => hb i (by omega))
    rw [writeElems_succ]
    by_cases hj : j = count
    · subst hj
      cases h : new j with
      | none => simpa using ih
      | some e => simp [readElem_writeElem_same _ _ _ _ hn hs he (hb j (by omega))]
    · have hlt : j < count + 1 ↔ j < count := by omega
      cases h : new count with
      | none => simpa [hlt] using ih
      | some e => simpa [hlt, readElem_writeElem_other _ _ _ _ _ hn hs (Ne.symm hj)] using ih

/-- Registers that hold none of the group's elements are unchanged by `writeElems`. -/
theorem readReg_writeElems (V : Vector (BitVec n) 32) (b count r : Nat) (new : Nat → Option (BitVec sew))
    (hr : ∀ i, i < count → r ≠ b + i / (n / sew)) :
    readReg (writeElems sew V b count new) r = readReg V r := by
  induction count with
  | zero => simp [writeElems]
  | succ count ih =>
    have ih := ih (fun i hi => hr i (by omega))
    rw [writeElems_succ]
    cases new count with
    | none => exact ih
    | some e => simpa [readReg_writeElem _ _ _ _ (hr count (by omega))] using ih

/-- Two register files agree on a register when they agree on all its elements. -/
theorem readReg_ext {V W : Vector (BitVec n) 32} (b k : Nat) (hn : n = epr * sew) (hs : 0 < sew)
    (h : ∀ m, m < epr → readElem sew V b (k * epr + m) = readElem sew W b (k * epr + m)) :
    readReg V (b + k) = readReg W (b + k) := by
  have hd : n / sew = epr := by rw [hn]; exact Nat.mul_div_cancel _ hs
  apply BitVec.eq_of_getLsbD_eq
  intro j hj
  have hq : j / sew < epr := Nat.div_lt_of_lt_mul (by rw [Nat.mul_comm, ← hn]; exact hj)
  have he : 0 < epr := Nat.zero_lt_of_lt hq
  have h1 : (k * epr + j / sew) / epr = k := by
    rw [Nat.mul_comm, Nat.mul_add_div he, Nat.div_eq_of_lt hq, Nat.add_zero]
  have h2 : (k * epr + j / sew) % epr = j / sew := by
    rw [Nat.mul_comm, Nat.mul_add_mod, Nat.mod_eq_of_lt hq]
  have h3 := congrArg (fun a => a.getLsbD (j % sew)) (h (j / sew) hq)
  have h4 : j % sew < sew := Nat.mod_lt _ hs
  have h5 : j / sew * sew + j % sew = j := by rw [Nat.mul_comm]; exact Nat.div_add_mod j sew
  simpa [readElem, hd, h1, h2, BitVec.getLsbD_extractLsb', h4, h5] using h3

/-- Reading a register by its number. -/
theorem readReg_val (V : Vector (BitVec n) 32) (r : Fin 32) : readReg V r.val = V[r] := by
  simp [readReg]

end Sys2Proof.Machine
end

