-- ==== Sys2Proof/Laws/Encoding.lean ====
section
/-! SUPPORT. The vector-arithmetic format field by field: what the decoder's field readers and the opcode map's masks see of a
word that the encoder assembled. -/

namespace Sys2Proof

variable (f6 : BitVec 6) (vm : Bool) (vs2 mid : BitVec 5) (f3 : BitVec 3) (vd : BitVec 5)

/-- Bit by bit: the format's seven fields at their places (30_encoding.md R66). -/
theorem getLsbD_opV (k : Nat) :
    (opV f6 vm vs2 mid f3 vd).getLsbD k =
      if k < 7 then (0b1010111#7).getLsbD k
      else if k < 12 then vd.getLsbD (k - 7)
      else if k < 15 then f3.getLsbD (k - 12)
      else if k < 20 then mid.getLsbD (k - 15)
      else if k < 25 then vs2.getLsbD (k - 20)
      else if k < 26 then vm
      else f6.getLsbD (k - 26) := by
  by_cases hk : k < 32
  · simp only [opV, BitVec.getLsbD_append]
    interval_cases k <;> simp
  · rw [BitVec.getLsbD_of_ge _ _ (by omega), if_neg (by omega), if_neg (by omega), if_neg (by omega), if_neg (by omega),
      if_neg (by omega), if_neg (by omega), BitVec.getLsbD_of_ge _ _ (by omega)]

theorem fieldVd_opV : fieldVd (opV f6 vm vs2 mid f3 vd) = vd.toFin := by
  unfold fieldVd
  congr 1
  apply BitVec.eq_of_getLsbD_eq
  intro k hk
  rw [BitVec.getLsbD_extractLsb', getLsbD_opV]
  interval_cases k <;> simp

theorem fieldUimm_opV : fieldUimm (opV f6 vm vs2 mid f3 vd) = mid := by
  unfold fieldUimm
  apply BitVec.eq_of_getLsbD_eq
  intro k hk
  rw [BitVec.getLsbD_extractLsb', getLsbD_opV]
  interval_cases k <;> simp

theorem fieldVs1_opV : fieldVs1 (opV f6 vm vs2 mid f3 vd) = mid.toFin :=
  congrArg BitVec.toFin (fieldUimm_opV f6 vm vs2 mid f3 vd)

theorem fieldVs2_opV : fieldVs2 (opV f6 vm vs2 mid f3 vd) = vs2.toFin := by
  unfold fieldVs2
  congr 1
  apply BitVec.eq_of_getLsbD_eq
  intro k hk
  rw [BitVec.getLsbD_extractLsb', getLsbD_opV]
  interval_cases k <;> simp

theorem fieldVm_opV : fieldVm (opV f6 vm vs2 mid f3 vd) = vm := by
  rw [fieldVm, getLsbD_opV]
  rfl

@[simp] theorem toFin_regField (r : Fin 32) : (regField r).toFin = r := rfl

/-- The mask of the maskable forms sees funct6, funct3 and the opcode. -/
theorem opV_and_maskable : opV f6 vm vs2 mid f3 vd &&& 0xFC00707F#32 = opV f6 false 0 0 f3 0 := by
  apply BitVec.eq_of_getLsbD_eq
  intro k hk
  rw [BitVec.getLsbD_and, getLsbD_opV, getLsbD_opV]
  interval_cases k <;> simp

/-- The mask of `vcompress.vm` sees vm too. -/
theorem opV_and_unmasked : opV f6 vm vs2 mid f3 vd &&& 0xFE00707F#32 = opV f6 vm 0 0 f3 0 := by
  apply BitVec.eq_of_getLsbD_eq
  intro k hk
  rw [BitVec.getLsbD_and, getLsbD_opV, getLsbD_opV]
  interval_cases k <;> simp

/-- The mask of the forms with bits 19:15 fixed sees those bits and vm. -/
theorem opV_and_mid : opV f6 vm vs2 mid f3 vd &&& 0xFE0FF07F#32 = opV f6 vm 0 mid f3 0 := by
  apply BitVec.eq_of_getLsbD_eq
  intro k hk
  rw [BitVec.getLsbD_and, getLsbD_opV, getLsbD_opV]
  interval_cases k <;> simp

/-- The mask of the forms with vs2 fixed sees that field and vm. -/
theorem opV_and_vs2 : opV f6 vm vs2 mid f3 vd &&& 0xFFF0707F#32 = opV f6 vm vs2 0 f3 0 := by
  apply BitVec.eq_of_getLsbD_eq
  intro k hk
  rw [BitVec.getLsbD_and, getLsbD_opV, getLsbD_opV]
  interval_cases k <;> simp

/-- A word cannot carry two patterns that differ under both masks. -/
theorem masks_apart {w m p m' p' : IWord} (h : w &&& m = p) (hd : p &&& m' ≠ p' &&& m) : w &&& m' ≠ p' := by
  intro h'
  apply hd
  rw [← h, ← h', BitVec.and_assoc, BitVec.and_assoc, BitVec.and_comm m m']

end Sys2Proof
end

