-- ==== Sys2Proof/Laws/State.lean ====
section
/-! SUPPORT. One lemma per field per update of the state, true by `rfl`. -/

namespace Sys2Proof.Machine

variable (s : State)

/-! ### `setX` writes `x` alone -/

section
variable (r : XReg) (a : BitVec s.cfg.xlen)

@[simp] theorem State.setX_cfg : (s.setX r a).cfg = s.cfg := rfl
@[simp] theorem State.setX_pc : (s.setX r a).pc = s.pc := rfl
@[simp] theorem State.setX_x : (s.setX r a).x = if r = 0 then s.x else s.x.set r a := rfl
@[simp] theorem State.setX_f : (s.setX r a).f = s.f := rfl
@[simp] theorem State.setX_v : (s.setX r a).v = s.v := rfl
@[simp] theorem State.setX_vl : (s.setX r a).vl = s.vl := rfl
@[simp] theorem State.setX_vstart : (s.setX r a).vstart = s.vstart := rfl
@[simp] theorem State.setX_vsew : (s.setX r a).vsew = s.vsew := rfl
@[simp] theorem State.setX_lmul : (s.setX r a).lmul = s.lmul := rfl
@[simp] theorem State.setX_vill : (s.setX r a).vill = s.vill := rfl
@[simp] theorem State.setX_mem : (s.setX r a).mem = s.mem := rfl

end

/-! ### `setF` writes `f` alone -/

section
variable (r : FReg) (a : BitVec s.cfg.flen)

@[simp] theorem State.setF_cfg : (s.setF r a).cfg = s.cfg := rfl
@[simp] theorem State.setF_pc : (s.setF r a).pc = s.pc := rfl
@[simp] theorem State.setF_x : (s.setF r a).x = s.x := rfl
@[simp] theorem State.setF_f : (s.setF r a).f = s.f.set r a := rfl
@[simp] theorem State.setF_v : (s.setF r a).v = s.v := rfl
@[simp] theorem State.setF_vl : (s.setF r a).vl = s.vl := rfl
@[simp] theorem State.setF_vstart : (s.setF r a).vstart = s.vstart := rfl
@[simp] theorem State.setF_vsew : (s.setF r a).vsew = s.vsew := rfl
@[simp] theorem State.setF_lmul : (s.setF r a).lmul = s.lmul := rfl
@[simp] theorem State.setF_vill : (s.setF r a).vill = s.vill := rfl
@[simp] theorem State.setF_mem : (s.setF r a).mem = s.mem := rfl

end

/-! ### `setV`, `updateGroup` and `copyRegs` write `v` alone -/

section
variable (r : VReg) (a : BitVec s.cfg.vlen)

@[simp] theorem State.setV_cfg : (s.setV r a).cfg = s.cfg := rfl
@[simp] theorem State.setV_pc : (s.setV r a).pc = s.pc := rfl
@[simp] theorem State.setV_x : (s.setV r a).x = s.x := rfl
@[simp] theorem State.setV_f : (s.setV r a).f = s.f := rfl
@[simp] theorem State.setV_v : (s.setV r a).v = s.v.set r a := rfl
@[simp] theorem State.setV_vl : (s.setV r a).vl = s.vl := rfl
@[simp] theorem State.setV_vstart : (s.setV r a).vstart = s.vstart := rfl
@[simp] theorem State.setV_vsew : (s.setV r a).vsew = s.vsew := rfl
@[simp] theorem State.setV_lmul : (s.setV r a).lmul = s.lmul := rfl
@[simp] theorem State.setV_vill : (s.setV r a).vill = s.vill := rfl
@[simp] theorem State.setV_mem : (s.setV r a).mem = s.mem := rfl

end

section
variable (vd : VReg) (new : Nat → Option (BitVec s.sew))

@[simp] theorem State.updateGroup_cfg : (s.updateGroup vd new).cfg = s.cfg := rfl
@[simp] theorem State.updateGroup_pc : (s.updateGroup vd new).pc = s.pc := rfl
@[simp] theorem State.updateGroup_x : (s.updateGroup vd new).x = s.x := rfl
@[simp] theorem State.updateGroup_f : (s.updateGroup vd new).f = s.f := rfl
@[simp] theorem State.updateGroup_v :
    (s.updateGroup vd new).v = writeElems s.sew s.v vd.val s.vlmax new := rfl
@[simp] theorem State.updateGroup_vl : (s.updateGroup vd new).vl = s.vl := rfl
@[simp] theorem State.updateGroup_vstart : (s.updateGroup vd new).vstart = s.vstart := rfl
@[simp] theorem State.updateGroup_vsew : (s.updateGroup vd new).vsew = s.vsew := rfl
@[simp] theorem State.updateGroup_lmul : (s.updateGroup vd new).lmul = s.lmul := rfl
@[simp] theorem State.updateGroup_vill : (s.updateGroup vd new).vill = s.vill := rfl
@[simp] theorem State.updateGroup_mem : (s.updateGroup vd new).mem = s.mem := rfl

end

section
variable (nf : Nat) (vd vs2 : VReg)

@[simp] theorem State.copyRegs_cfg : (s.copyRegs nf vd vs2).cfg = s.cfg := rfl
@[simp] theorem State.copyRegs_pc : (s.copyRegs nf vd vs2).pc = s.pc := rfl
@[simp] theorem State.copyRegs_x : (s.copyRegs nf vd vs2).x = s.x := rfl
@[simp] theorem State.copyRegs_f : (s.copyRegs nf vd vs2).f = s.f := rfl
@[simp] theorem State.copyRegs_v : (s.copyRegs nf vd vs2).v = copyBlock s.v nf vd.val vs2.val := rfl
@[simp] theorem State.copyRegs_vl : (s.copyRegs nf vd vs2).vl = s.vl := rfl
@[simp] theorem State.copyRegs_vstart : (s.copyRegs nf vd vs2).vstart = s.vstart := rfl
@[simp] theorem State.copyRegs_vsew : (s.copyRegs nf vd vs2).vsew = s.vsew := rfl
@[simp] theorem State.copyRegs_lmul : (s.copyRegs nf vd vs2).lmul = s.lmul := rfl
@[simp] theorem State.copyRegs_vill : (s.copyRegs nf vd vs2).vill = s.vill := rfl
@[simp] theorem State.copyRegs_mem : (s.copyRegs nf vd vs2).mem = s.mem := rfl

end

/-! ### `complete` writes `vstart` and `pc` -/

@[simp] theorem State.complete_cfg : s.complete.cfg = s.cfg := rfl
@[simp] theorem State.complete_pc : s.complete.pc = (s.pc + 4 : BitVec s.cfg.xlen) := rfl
@[simp] theorem State.complete_x : s.complete.x = s.x := rfl
@[simp] theorem State.complete_f : s.complete.f = s.f := rfl
@[simp] theorem State.complete_v : s.complete.v = s.v := rfl
@[simp] theorem State.complete_vl : s.complete.vl = s.vl := rfl
@[simp] theorem State.complete_vstart : s.complete.vstart = 0 := rfl
@[simp] theorem State.complete_vsew : s.complete.vsew = s.vsew := rfl
@[simp] theorem State.complete_lmul : s.complete.lmul = s.lmul := rfl
@[simp] theorem State.complete_vill : s.complete.vill = s.vill := rfl
@[simp] theorem State.complete_mem : s.complete.mem = s.mem := rfl

/-! ### `placeWord` writes `mem` alone -/

section
variable (w : IWord)

@[simp] theorem State.placeWord_cfg : (s.placeWord w).cfg = s.cfg := rfl
@[simp] theorem State.placeWord_pc : (s.placeWord w).pc = s.pc := rfl
@[simp] theorem State.placeWord_x : (s.placeWord w).x = s.x := rfl
@[simp] theorem State.placeWord_f : (s.placeWord w).f = s.f := rfl
@[simp] theorem State.placeWord_v : (s.placeWord w).v = s.v := rfl
@[simp] theorem State.placeWord_vl : (s.placeWord w).vl = s.vl := rfl
@[simp] theorem State.placeWord_vstart : (s.placeWord w).vstart = s.vstart := rfl
@[simp] theorem State.placeWord_vsew : (s.placeWord w).vsew = s.vsew := rfl
@[simp] theorem State.placeWord_lmul : (s.placeWord w).lmul = s.lmul := rfl
@[simp] theorem State.placeWord_vill : (s.placeWord w).vill = s.vill := rfl
@[simp] theorem State.placeWord_mem :
    (s.placeWord w).mem = s.mem.writeBytes s.pc.toNat (bytesOfWord w) := rfl

end

end Sys2Proof.Machine
end

