-- ==== Sys2Proof/Laws/Group.lean ====
section
/-! SUPPORT. The shared operations at the level of the state: the arithmetic of vtype, what `updateGroup` and `copyRegs` do to
the vector registers, and what a meaning's end (`completeIf`) can answer. -/

namespace Sys2Proof.Machine

/-! ### The arithmetic of vtype -/

theorem Lmul.regs_pos (l : Lmul) : 0 < l.regs := by cases l <;> decide

theorem Lmul.regs_le (l : Lmul) : l.regs ≤ 8 := by cases l <;> decide

theorem Lmul.regs_dvd (l : Lmul) : l.regs ∣ 32 := by cases l <;> decide

theorem State.sew_pos (s : State) : 0 < s.sew := Nat.two_pow_pos _

/-- SEW divides VLEN: both are powers of two and SEW is at most ELEN. -/
theorem State.sew_dvd_vlen (s : State) : s.sew ∣ s.cfg.vlen := by
  have := s.vsew.isLt
  exact Nat.pow_dvd_pow 2 (by omega)

/-- VLEN = EPR * SEW. -/
theorem State.vlen_eq (s : State) : s.cfg.vlen = s.cfg.vlen / s.sew * s.sew :=
  (Nat.div_mul_cancel s.sew_dvd_vlen).symm

theorem State.epr_pos (s : State) : 0 < s.cfg.vlen / s.sew :=
  Nat.div_pos (Nat.le_of_dvd (Nat.two_pow_pos _) s.sew_dvd_vlen) s.sew_pos

/-- VLMAX = LMUL * EPR. -/
theorem State.vlmax_eq (s : State) : s.vlmax = s.lmul.regs * (s.cfg.vlen / s.sew) :=
  Nat.mul_div_assoc _ s.sew_dvd_vlen

/-- An aligned group stays within the 32 registers. -/
theorem State.aligned_bound {s : State} {r : VReg} (h : s.aligned r = true) : r.val + s.lmul.regs ≤ 32 := by
  have hr := r.isLt
  simp only [State.aligned, beq_iff_eq] at h
  have hd := s.lmul.regs_dvd
  obtain ⟨a, ha⟩ := Nat.dvd_of_mod_eq_zero h
  obtain ⟨b, hb⟩ := hd
  have hpos := s.lmul.regs_pos
  have hab : a < b := Nat.lt_of_mul_lt_mul_left (a := s.lmul.regs) (by omega)
  calc r.val + s.lmul.regs = s.lmul.regs * (a + 1) := by rw [ha]; ring
    _ ≤ s.lmul.regs * b := Nat.mul_le_mul_left _ hab
    _ = 32 := hb.symm

/-- The register of the group an element index falls in. -/
theorem State.elem_reg_lt {s : State} {i : Nat} (h : i < s.vlmax) : i / (s.cfg.vlen / s.sew) < s.lmul.regs := by
  rw [s.vlmax_eq] at h
  exact Nat.div_lt_of_lt_mul (by rwa [Nat.mul_comm] at h)

/-! ### `updateGroup` -/

/-- All that `updateGroup` does to its group: element j is the new value where there is one, and unchanged where there is
none. -/
theorem State.readElem_updateGroup {s : State} {vd : VReg} (new : Nat → Option (BitVec s.sew))
    (ha : s.aligned vd = true) {j : Nat} (hj : j < s.vlmax) :
    readElem s.sew (writeElems s.sew s.v vd.val s.vlmax new) vd.val j = (new j).getD (s.elem vd j) := by
  have hb := State.aligned_bound ha
  rw [readElem_writeElems s.v vd.val s.vlmax j new s.vlen_eq s.sew_pos s.epr_pos, if_pos hj]
  · rfl
  · intro i hi
    have := State.elem_reg_lt hi
    omega

/-- `updateGroup` leaves the registers outside its group alone. -/
theorem State.updateGroup_outside {s : State} {vd : VReg} (new : Nat → Option (BitVec s.sew)) {r : VReg}
    (h : r.val < vd.val ∨ vd.val + s.lmul.regs ≤ r.val) :
    (writeElems s.sew s.v vd.val s.vlmax new)[r] = s.v[r] := by
  rw [← readReg_val, ← readReg_val]
  apply readReg_writeElems
  intro i hi
  have := State.elem_reg_lt hi
  generalize i / (s.cfg.vlen / s.sew) = q at this ⊢
  omega

/-- Two vector register files are equal when they agree on the elements of one aligned group and on every register outside
it. -/
theorem State.registers_ext {s : State} {vd : VReg} {V W : Vector (BitVec s.cfg.vlen) 32}
    (he : ∀ j, j < s.vlmax → readElem s.sew V vd.val j = readElem s.sew W vd.val j)
    (ho : ∀ r : VReg, r.val < vd.val ∨ vd.val + s.lmul.regs ≤ r.val → V[r] = W[r]) : V = W := by
  apply Vector.ext
  intro r hr
  by_cases hin : vd.val ≤ r ∧ r < vd.val + s.lmul.regs
  · have hk := readReg_ext (V := V) (W := W) (epr := s.cfg.vlen / s.sew) vd.val (r - vd.val) s.vlen_eq s.sew_pos (by
      intro m hm
      apply he
      rw [s.vlmax_eq]
      calc (r - vd.val) * (s.cfg.vlen / s.sew) + m < (r - vd.val + 1) * (s.cfg.vlen / s.sew) := by
            rw [Nat.add_mul]; omega
        _ ≤ s.lmul.regs * (s.cfg.vlen / s.sew) := Nat.mul_le_mul_right _ (by omega))
    rw [show vd.val + (r - vd.val) = r by omega] at hk
    simpa [readReg, hr] using hk
  · exact ho ⟨r, hr⟩ (by simp only; omega)

/-! ### `copyRegs` -/

/-- All that `copyBlock` does: register `b + k`, k < nf, receives the old register `c + k`, every other is unchanged. -/
theorem readReg_copyBlock {n : Nat} (V : Vector (BitVec n) 32) (nf b c r : Nat) (hr : r < 32) :
    readReg (copyBlock V nf b c) r = if b ≤ r ∧ r < b + nf then readReg V (c + (r - b)) else readReg V r := by
  simp only [copyBlock]
  induction nf with
  | zero => simp only [List.range_zero, List.foldl_nil]; rw [if_neg (by omega)]
  | succ k ih =>
    rw [List.range_succ, List.foldl_append, List.foldl_cons, List.foldl_nil, readReg_setIfInBounds, ih]
    by_cases h : b + k = r
    · rw [if_pos ⟨h, hr⟩, if_pos (by omega)]
      congr 1; omega
    · rw [if_neg (by tauto)]
      congr 1
      simp only [eq_iff_iff]; omega

/-! ### The end of a meaning -/

/-- A meaning that answers a next state passed its check and completed from the state its writes made. -/
theorem completeIf_eq_next {legal : Bool} {i : Instr} {s t u : State} :
    completeIf legal i s t = .next u ↔ legal = true ∧ u = t.complete := by
  cases legal <;> simp [completeIf, raiseIllegal, eq_comm]

/-- A meaning that faults failed its check, and the fault is the illegal instruction exception at this pc, with the
instruction's word. -/
theorem completeIf_eq_fault {legal : Bool} {i : Instr} {s t : State} {r : Fault} :
    completeIf legal i s t = .fault r ↔ legal = false ∧ r = .illegalInstruction s.pc.toNat (encode i) := by
  cases legal <;> simp [completeIf, raiseIllegal, eq_comm]

/-- No meaning is refused. -/
theorem completeIf_ne_refused {legal : Bool} {i : Instr} {s t : State} {r : Refusal} :
    completeIf legal i s t ≠ .refused r := by
  cases legal <;> simp [completeIf, raiseIllegal]

end Sys2Proof.Machine
end

