-- ==== Sys2Proof/Laws/Memory.lean ====
section
/-! SUPPORT. The program text as a memory: a read after a write, and every write keeps the canonical form. -/

namespace Sys2Proof.Machine

/-- A byte written reads back. -/
theorem Memory.read_write_same (m : Memory) (a : Nat) (b : Byte) : (m.write a b).read a = some b := by
  induction m with
  | nil => simp [Memory.write, Memory.read]
  | cons kc rest ih =>
    obtain ⟨k, c⟩ := kc
    simp only [Memory.write]
    split
    · simp [Memory.read]
    · split
      · simp [Memory.read]
      · simp [Memory.read, *]

/-- A write leaves every other address alone. -/
theorem Memory.read_write_other (m : Memory) {a c : Nat} (b : Byte) (h : c ≠ a) : (m.write a b).read c = m.read c := by
  induction m with
  | nil => simp [Memory.write, Memory.read, h]
  | cons kc rest ih =>
    obtain ⟨k, d⟩ := kc
    simp only [Memory.write]
    split
    · simp [Memory.read, h]
    · split
      · subst_vars; simp [Memory.read, h]
      · simp [Memory.read, ih]

/-- The first address of a canonical memory is below every other, so a smaller one may stand before it. -/
theorem Memory.wf_cons (a : Nat) (b : Byte) (m : Memory) :
    Memory.wf ((a, b) :: m) = true ↔ (∀ k c rest, m = (k, c) :: rest → a < k) ∧ m.wf = true := by
  cases m with
  | nil => simp [Memory.wf]
  | cons kc rest => obtain ⟨k, c⟩ := kc; simp [Memory.wf]

/-- The first entry after a write is the written one or the old first one. -/
theorem Memory.write_head {m : Memory} {a k : Nat} {b c : Byte} {rest : Memory} (h : m.write a b = (k, c) :: rest) :
    k = a ∨ ∃ d r, m = (k, d) :: r := by
  cases m with
  | nil => simp [Memory.write] at h; exact .inl h.1.1.symm
  | cons kd r =>
    obtain ⟨k', d⟩ := kd
    simp only [Memory.write] at h
    split at h
    · simp at h; exact .inl h.1.1.symm
    · split at h
      · simp at h; exact .inl h.1.1.symm
      · simp at h; exact .inr ⟨d, r, by rw [h.1.1]⟩

/-- A write keeps the canonical form. -/
theorem Memory.write_wf {m : Memory} (a : Nat) (b : Byte) (h : m.wf = true) : (m.write a b).wf = true := by
  induction m with
  | nil => simp [Memory.write, Memory.wf]
  | cons kc rest ih =>
    obtain ⟨k, c⟩ := kc
    obtain ⟨hk, hr⟩ := (Memory.wf_cons k c rest).1 h
    simp only [Memory.write]
    split
    · next hlt => exact (Memory.wf_cons ..).2 ⟨by rintro k' c' r h'; simp at h'; omega, h⟩
    · split
      · next heq => subst heq; exact (Memory.wf_cons ..).2 ⟨hk, hr⟩
      · next hge hne =>
        refine (Memory.wf_cons ..).2 ⟨?_, ih hr⟩
        intro k' c' r h'
        rcases Memory.write_head h' with rfl | ⟨d, r', hm⟩
        · omega
        · exact hk _ _ _ hm

/-- Placing bytes keeps the canonical form. -/
theorem Memory.writeBytes_wf {m : Memory} (a : Nat) (bs : List Byte) (h : m.wf = true) : (m.writeBytes a bs).wf = true := by
  induction bs generalizing m a with
  | nil => simpa [Memory.writeBytes] using h
  | cons b bs ih => exact ih (a + 1) (Memory.write_wf a b h)

/-- Placing a word keeps the canonical form. -/
theorem State.placeWord_wf {s : State} (w : IWord) (h : s.mem.wf = true) : (s.placeWord w).mem.wf = true :=
  Memory.writeBytes_wf _ _ h

/-- Placing bytes leaves every address outside their run alone. -/
theorem Memory.read_writeBytes_other (m : Memory) {a c : Nat} (bs : List Byte) (h : c < a ∨ a + bs.length ≤ c) :
    (m.writeBytes a bs).read c = m.read c := by
  induction bs generalizing m a with
  | nil => rfl
  | cons b bs ih =>
    simp only [List.length_cons] at h
    simp only [Memory.writeBytes]
    rw [ih _ (by omega), Memory.read_write_other _ _ (by omega)]

/-- In a canonical memory no address up to the first one is listed after it. -/
theorem Memory.read_tail_of_le {k a : Nat} {c : Byte} {m : Memory} (h : Memory.wf ((k, c) :: m) = true) (ha : a ≤ k) :
    m.read a = none := by
  induction m generalizing k c with
  | nil => rfl
  | cons y rest ih =>
    obtain ⟨k', c'⟩ := y
    obtain ⟨h1, h2⟩ := (Memory.wf_cons ..).1 h
    have hlt : k < k' := h1 _ _ _ rfl
    rw [Memory.read, if_neg (by omega)]
    exact ih h2 (by omega)

/-- All that `textLength` says of a canonical memory: the addresses it counts from `a` up are listed, and the next one is
not. -/
theorem Memory.textLength_spec {m : Memory} (h : m.wf = true) (a : Nat) :
    (∀ x, a ≤ x → x < a + m.textLength a → (m.read x).isSome = true) ∧ m.read (a + m.textLength a) = none := by
  induction m generalizing a with
  | nil => exact ⟨fun x h1 h2 => absurd h2 (by simp [Memory.textLength, h1]), rfl⟩
  | cons kc rest ih =>
    obtain ⟨k, c⟩ := kc
    have hw := ((Memory.wf_cons ..).1 h).2
    simp only [Memory.textLength, Memory.read]
    split
    · obtain ⟨i1, i2⟩ := ih hw a
      exact ⟨fun x h1 h2 => by rw [if_neg (by omega)]; exact i1 x h1 h2, by rw [if_neg (by omega)]; exact i2⟩
    · split
      · next heq =>
        subst heq
        obtain ⟨i1, i2⟩ := ih hw (k + 1)
        refine ⟨fun x h1 h2 => ?_, ?_⟩
        · by_cases hx : x = k
          · simp [hx]
          · rw [if_neg hx]; exact i1 x (by omega) (by omega)
        · rw [if_neg (by omega), ← Nat.add_assoc]; exact i2
      · exact ⟨fun x h1 h2 => by omega, by rw [if_neg (by omega)]; exact Memory.read_tail_of_le h (by omega)⟩

/-- The memory after reset has the canonical form. -/
theorem reset_mem_wf : State.reset.mem.wf = true := rfl

end Sys2Proof.Machine
end

