-- ==== Sys2Proof/Laws/PerInstr.lean ====
section
/-! SUPPORT. Families of facts with one lemma per constructor of Instr (LAWS.json, per_instruction). -/

namespace Sys2Proof.Laws

/-- The instruction's word carries the pattern of its row of 30_encoding.md R71 under the row's mask. -/
def EncodesRow.Statement (i : Instr) : Prop :=
  match i with
  | .vmvXS _ _ => encode i &&& 0xFE0FF07F#32 = 0x42002057#32
  | .vmvSX _ _ => encode i &&& 0xFFF0707F#32 = 0x42006057#32
  | .vfmvFS _ _ => encode i &&& 0xFE0FF07F#32 = 0x42001057#32
  | .vfmvSF _ _ => encode i &&& 0xFFF0707F#32 = 0x42005057#32
  | .vslideupVx _ _ _ _ => encode i &&& 0xFC00707F#32 = 0x38004057#32
  | .vslideupVi _ _ _ _ => encode i &&& 0xFC00707F#32 = 0x38003057#32
  | .vslidedownVx _ _ _ _ => encode i &&& 0xFC00707F#32 = 0x3C004057#32
  | .vslidedownVi _ _ _ _ => encode i &&& 0xFC00707F#32 = 0x3C003057#32
  | .vslide1upVx _ _ _ _ => encode i &&& 0xFC00707F#32 = 0x38006057#32
  | .vslide1downVx _ _ _ _ => encode i &&& 0xFC00707F#32 = 0x3C006057#32
  | .vrgatherVv _ _ _ _ => encode i &&& 0xFC00707F#32 = 0x30000057#32
  | .vrgatherVx _ _ _ _ => encode i &&& 0xFC00707F#32 = 0x30004057#32
  | .vrgatherVi _ _ _ _ => encode i &&& 0xFC00707F#32 = 0x30003057#32
  | .vcompressVm _ _ _ => encode i &&& 0xFE00707F#32 = 0x5E002057#32
  | .vmv1rV _ _ => encode i &&& 0xFE0FF07F#32 = 0x9E003057#32
  | .vmv2rV _ _ => encode i &&& 0xFE0FF07F#32 = 0x9E00B057#32
  | .vmv4rV _ _ => encode i &&& 0xFE0FF07F#32 = 0x9E01B057#32
  | .vmv8rV _ _ => encode i &&& 0xFE0FF07F#32 = 0x9E03B057#32

theorem EncodesRow.vmvXS (rd : XReg) (vs2 : VReg) : EncodesRow.Statement (.vmvXS rd vs2) :=
  opV_and_mid ..

theorem EncodesRow.vmvSX (vd : VReg) (rs1 : XReg) : EncodesRow.Statement (.vmvSX vd rs1) :=
  opV_and_vs2 ..

theorem EncodesRow.vfmvFS (rd : FReg) (vs2 : VReg) : EncodesRow.Statement (.vfmvFS rd vs2) :=
  opV_and_mid ..

theorem EncodesRow.vfmvSF (vd : VReg) (rs1 : FReg) : EncodesRow.Statement (.vfmvSF vd rs1) :=
  opV_and_vs2 ..

theorem EncodesRow.vslideupVx (vd vs2 : VReg) (rs1 : XReg) (vm : Bool) :
    EncodesRow.Statement (.vslideupVx vd vs2 rs1 vm) := opV_and_maskable ..

theorem EncodesRow.vslideupVi (vd vs2 : VReg) (uimm : Uimm) (vm : Bool) :
    EncodesRow.Statement (.vslideupVi vd vs2 uimm vm) := opV_and_maskable ..

theorem EncodesRow.vslidedownVx (vd vs2 : VReg) (rs1 : XReg) (vm : Bool) :
    EncodesRow.Statement (.vslidedownVx vd vs2 rs1 vm) := opV_and_maskable ..

theorem EncodesRow.vslidedownVi (vd vs2 : VReg) (uimm : Uimm) (vm : Bool) :
    EncodesRow.Statement (.vslidedownVi vd vs2 uimm vm) := opV_and_maskable ..

theorem EncodesRow.vslide1upVx (vd vs2 : VReg) (rs1 : XReg) (vm : Bool) :
    EncodesRow.Statement (.vslide1upVx vd vs2 rs1 vm) := opV_and_maskable ..

theorem EncodesRow.vslide1downVx (vd vs2 : VReg) (rs1 : XReg) (vm : Bool) :
    EncodesRow.Statement (.vslide1downVx vd vs2 rs1 vm) := opV_and_maskable ..

theorem EncodesRow.vrgatherVv (vd vs2 vs1 : VReg) (vm : Bool) :
    EncodesRow.Statement (.vrgatherVv vd vs2 vs1 vm) := opV_and_maskable ..

theorem EncodesRow.vrgatherVx (vd vs2 : VReg) (rs1 : XReg) (vm : Bool) :
    EncodesRow.Statement (.vrgatherVx vd vs2 rs1 vm) := opV_and_maskable ..

theorem EncodesRow.vrgatherVi (vd vs2 : VReg) (uimm : Uimm) (vm : Bool) :
    EncodesRow.Statement (.vrgatherVi vd vs2 uimm vm) := opV_and_maskable ..

theorem EncodesRow.vcompressVm (vd vs2 vs1 : VReg) : EncodesRow.Statement (.vcompressVm vd vs2 vs1) :=
  opV_and_unmasked ..

theorem EncodesRow.vmv1rV (vd vs2 : VReg) : EncodesRow.Statement (.vmv1rV vd vs2) := opV_and_mid ..

theorem EncodesRow.vmv2rV (vd vs2 : VReg) : EncodesRow.Statement (.vmv2rV vd vs2) := opV_and_mid ..

theorem EncodesRow.vmv4rV (vd vs2 : VReg) : EncodesRow.Statement (.vmv4rV vd vs2) := opV_and_mid ..

theorem EncodesRow.vmv8rV (vd vs2 : VReg) : EncodesRow.Statement (.vmv8rV vd vs2) := opV_and_mid ..

end Sys2Proof.Laws
end

