-- ==== Sys2Proof/Tests/Slice0.lean ====
section
/-! SUPPORT. Tests: decoding of words written out from 30_encoding.md R66 to R71, the checks of `wellFormed`, one step of each
instruction with expected values from spec/95_test_vectors.md (the vector's name stands in the comment), and for every statement
with hypotheses a state and operands that meet them. -/

open Sys2Proof Sys2Proof.Machine

namespace Sys2Proof.Tests

/-! ### Small states -/

/-- The value a list of (register, value) pairs gives a register, 0 where it gives none. -/
def lookup {n : Nat} (l : List (Nat × Nat)) (r : Fin 32) : BitVec n := BitVec.ofNat n ((l.lookup r.val).getD 0)

/-- What a test varies in its start state. -/
structure Launch where
  cfg : Config := resetConfig
  vsew : Fin (cfg.elenLog + 1) := 0
  lmul : Lmul := .m1
  vl : Nat := 0
  vstart : Nat := 0
  vill : Bool := false
  pc : Nat := 0x1000
  x : List (Nat × Nat) := []
  f : List (Nat × Nat) := []
  v : List (Nat × Nat) := []
  mem : Memory := []

/-- The state. -/
def Launch.state (l : Launch) : State :=
  { cfg := l.cfg
    pc := BitVec.ofNat _ l.pc
    x := Vector.ofFn (lookup l.x)
    f := Vector.ofFn (lookup l.f)
    v := Vector.ofFn (lookup l.v)
    vl := BitVec.ofNat _ l.vl
    vstart := BitVec.ofNat _ l.vstart
    vsew := l.vsew
    lmul := l.lmul
    vill := l.vill
    mem := l.mem }

/-- What one step on a word leaves in a register, or nothing where it does not complete. -/
def Launch.stepV (l : Launch) (w : Nat) (r : Fin 32) : Option Nat :=
  match step (l.state.withFetchWord 32 w) with
  | .next t => some (t.v[r]).toNat
  | _ => none

def Launch.stepX (l : Launch) (w : Nat) (r : Fin 32) : Option Nat :=
  match step (l.state.withFetchWord 32 w) with
  | .next t => some (t.readX r).toNat
  | _ => none

def Launch.stepF (l : Launch) (w : Nat) (r : Fin 32) : Option Nat :=
  match step (l.state.withFetchWord 32 w) with
  | .next t => some (t.readF r).toNat
  | _ => none

/-- vstart and pc after one step on a word. -/
def Launch.stepControl (l : Launch) (w : Nat) : Option (Nat × Nat) :=
  match step (l.state.withFetchWord 32 w) with
  | .next t => some (t.vstart.toNat, t.pc.toNat)
  | _ => none

/-- pc and word of the fault one step on a word ends in. -/
def Launch.stepFault (l : Launch) (w : Nat) : Option (Nat × IWord) :=
  match step (l.state.withFetchWord 32 w) with
  | .fault (.illegalInstruction pc word) => some (pc, word)
  | _ => none

/-- The refusal one step from the state as it is ends in. -/
def Launch.refusal (l : Launch) : Option Refusal :=
  match step l.state with
  | .refused r => some r
  | _ => none

/-- The slide state of 95_test_vectors.md 2.3. -/
def slide : Launch :=
  { vsew := 2, lmul := .m2, vl := 6, x := [(5, 3)]
    v := [(4, 0x0000000D0000000C0000000B0000000A), (5, 0x00000011000000100000000F0000000E),
      (2, 0x00000067000000660000006500000064), (3, 0x0000006B0000006A0000006900000068), (0, 0x2A)] }

/-- The gather state of 95_test_vectors.md 2.4. -/
def gather : Launch :=
  { vsew := 1, vl := 8, x := [(5, 2)]
    v := [(2, 0x00A700A600A500A400A300A200A100A0), (1, 0x000200010001FFFF0003000800000007),
      (3, 0x00570056005500540053005200510050), (0, 0xF0)] }

/-- The compress instance of 95_test_vectors.md T1. -/
def compress : Launch :=
  { vl := 9
    v := [(0, 0x1A5), (1, 0x00000000000000080706050403020100), (2, 0xEEEEEEEEEEEEEE010203040506070809)] }

/-- XLEN = 32, FLEN = 32, ELEN = 64, VLEN = 128, MLEN = SEW/LMUL. -/
def config32 : Config := { xwidth := .w32, fwidth := .w32, elenLog := 3, vlenLog := 1, maskLayout := .sewOverLmul }

/-! ### Decoding: fields funct6, vm, vs2, bits 19:15, funct3, bits 11:7, opcode (R66) with the values of R67, R69, R71 -/

theorem test_decode_vmv_x_s : decodeWord 0b010000_1_00010_00000_010_00101_1010111#32 = .instr (.vmvXS 5 2) := by decide
theorem test_decode_vmv_s_x : decodeWord 0b010000_1_00000_00101_110_00001_1010111#32 = .instr (.vmvSX 1 5) := by decide
theorem test_decode_vfmv_f_s : decodeWord 0b010000_1_00010_00000_001_00001_1010111#32 = .instr (.vfmvFS 1 2) := by decide
theorem test_decode_vfmv_s_f : decodeWord 0b010000_1_00000_00001_101_00011_1010111#32 = .instr (.vfmvSF 3 1) := by decide
theorem test_decode_vslideup_vx :
    decodeWord 0b001110_1_00100_00101_100_00010_1010111#32 = .instr (.vslideupVx 2 4 5 true) := by decide
theorem test_decode_vslideup_vi :
    decodeWord 0b001110_0_00100_00011_011_00010_1010111#32 = .instr (.vslideupVi 2 4 3 false) := by decide
theorem test_decode_vslidedown_vx :
    decodeWord 0b001111_1_00100_00101_100_00010_1010111#32 = .instr (.vslidedownVx 2 4 5 true) := by decide
theorem test_decode_vslidedown_vi :
    decodeWord 0b001111_1_00100_11111_011_00010_1010111#32 = .instr (.vslidedownVi 2 4 31 true) := by decide
theorem test_decode_vslide1up_vx :
    decodeWord 0b001110_1_00100_00101_110_00010_1010111#32 = .instr (.vslide1upVx 2 4 5 true) := by decide
theorem test_decode_vslide1down_vx :
    decodeWord 0b001111_0_00100_00101_110_00010_1010111#32 = .instr (.vslide1downVx 2 4 5 false) := by decide
theorem test_decode_vrgather_vv :
    decodeWord 0b001100_1_00010_00001_000_00011_1010111#32 = .instr (.vrgatherVv 3 2 1 true) := by decide
theorem test_decode_vrgather_vx :
    decodeWord 0b001100_1_00010_00101_100_00011_1010111#32 = .instr (.vrgatherVx 3 2 5 true) := by decide
theorem test_decode_vrgather_vi :
    decodeWord 0b001100_0_00010_00111_011_00011_1010111#32 = .instr (.vrgatherVi 3 2 7 false) := by decide
theorem test_decode_vcompress_vm :
    decodeWord 0b010111_1_00001_00000_010_00010_1010111#32 = .instr (.vcompressVm 2 1 0) := by decide
theorem test_decode_vmv1r_v : decodeWord 0b100111_1_00010_00000_011_00001_1010111#32 = .instr (.vmv1rV 1 2) := by decide
theorem test_decode_vmv2r_v : decodeWord 0b100111_1_01100_00001_011_01010_1010111#32 = .instr (.vmv2rV 10 12) := by decide
theorem test_decode_vmv4r_v : decodeWord 0b100111_1_01000_00011_011_00100_1010111#32 = .instr (.vmv4rV 4 8) := by decide
theorem test_decode_vmv8r_v : decodeWord 0b100111_1_01000_00111_011_00000_1010111#32 = .instr (.vmv8rV 0 8) := by decide

/-- Reserved: `vmv.x.s` with vm = 0, `vcompress.vm` with vm = 0, nf = 3, simm[4:3] = 01 (S7, C9, W6, W7). -/
theorem test_decode_reserved :
    decodeWord 0x402022D7#32 = .reserved .maskedVmvXS ∧ decodeWord 0x5C102157#32 = .reserved .maskedVcompress ∧
    decodeWord 0x9E813257#32 = .reserved .wholeRegisterMove ∧ decodeWord 0x9E843257#32 = .reserved .wholeRegisterMove := by
  decide

/-- S16 and 2.7: another OP-V word, `vmv.s.x` with a vs2 field, and a base word. -/
theorem test_decode_not_in_scope :
    decodeWord 0x422822D7#32 = .notInScope ∧ decodeWord 0x4212E0D7#32 = .notInScope ∧ decodeWord 0x00000013#32 = .notInScope := by
  decide

theorem test_decode_truncated : decode [0xD7, 0x22, 0x20] = .truncated := by decide

/-- The table numbers bit 0 as the lowest of the first word; the bytes lie in memory lowest first. -/
theorem test_decode_table_word : decodeTableWord 32 0x422022D7 = some (.vmvXS 5 2) ∧ decodeTableWord 32 0x13 = none := by decide

/-! ### Ill-formed instructions, one per check -/

theorem test_wellFormed_refuses_destination_over_source :
    (Instr.vslideupVx 4 4 5 true).wellFormed = false ∧ (Instr.vslideupVi 4 4 1 true).wellFormed = false ∧
    (Instr.vslide1upVx 4 4 5 true).wellFormed = false ∧ (Instr.vrgatherVv 2 2 1 true).wellFormed = false ∧
    (Instr.vrgatherVx 2 2 1 true).wellFormed = false ∧ (Instr.vrgatherVi 2 2 1 true).wellFormed = false ∧
    (Instr.vcompressVm 1 1 0).wellFormed = false := by decide

theorem test_wellFormed_refuses_destination_over_index_or_mask :
    (Instr.vrgatherVv 1 2 1 true).wellFormed = false ∧ (Instr.vcompressVm 0 1 0).wellFormed = false := by decide

theorem test_wellFormed_refuses_masked_v0 :
    (Instr.vslideupVx 0 4 5 false).wellFormed = false ∧ (Instr.vslideupVi 0 4 1 false).wellFormed = false ∧
    (Instr.vslidedownVx 0 4 5 false).wellFormed = false ∧ (Instr.vslidedownVi 0 4 1 false).wellFormed = false ∧
    (Instr.vslide1upVx 0 4 5 false).wellFormed = false ∧ (Instr.vslide1downVx 0 4 5 false).wellFormed = false ∧
    (Instr.vrgatherVv 0 2 1 false).wellFormed = false ∧ (Instr.vrgatherVx 0 2 1 false).wellFormed = false ∧
    (Instr.vrgatherVi 0 2 1 false).wellFormed = false := by decide

theorem test_wellFormed_refuses_unaligned_whole_moves :
    (Instr.vmv2rV 3 4).wellFormed = false ∧ (Instr.vmv2rV 4 3).wellFormed = false ∧ (Instr.vmv4rV 4 6).wellFormed = false ∧
    (Instr.vmv8rV 8 12).wellFormed = false := by decide

theorem test_wellFormed_accepts_in_place :
    (Instr.vslidedownVi 4 4 3 true).wellFormed = true ∧ (Instr.vslideupVi 0 4 3 true).wellFormed = true ∧
    (Instr.vmv8rV 8 8).wellFormed = true ∧ (Instr.vrgatherVv 3 2 2 true).wellFormed = true := by decide

/-! ### One step of each instruction -/

/-- S5: vl, vstart and LMUL are ignored, zero extension, vstart cleared. -/
theorem test_vmv_x_s_ignores_vl :
    ({ lmul := .m8, vstart := 5, v := [(3, 0xFF80)] } : Launch).stepX 0x423022D7 5 = some 0x80 := by decide

/-- S2: XLEN = 32, SEW = 64 truncates. -/
theorem test_vmv_x_s_truncates :
    ({ cfg := config32, vsew := 3, v := [(2, 0x1122334455667788)] } : Launch).stepX 0x422022D7 5 = some 0x55667788 := by decide

/-- S9: XLEN = 32, SEW = 64 zero-extends, element 1 zeroed. -/
theorem test_vmv_s_x_zero_extends :
    ({ cfg := config32, vsew := 3, vl := 1, x := [(5, 0x80000000)], v := [(1, 2 ^ 128 - 1)] } : Launch).stepV 0x4202E0D7 1 =
      some 0x80000000 := by decide

/-- S14: only the one, unaligned register is written. -/
theorem test_vmv_s_x_ignores_lmul :
    ({ vsew := 2, lmul := .m4, vl := 16, x := [(6, 0xCAFEF00D)], v := [(5, 2 ^ 128 - 1)] } : Launch).stepV 0x420362D7 5 =
      some 0xCAFEF00D := by decide

/-- F1: extension by ones. -/
theorem test_vfmv_f_s_boxes :
    ({ vsew := 2, v := [(2, 0x123456783F800000)] } : Launch).stepF 0x422010D7 1 = some 0xFFFFFFFF3F800000 := by decide

/-- F5: FLEN = 32, SEW = 64. -/
theorem test_vfmv_s_f_boxes :
    ({ cfg := config32, vsew := 3, vl := 1, f := [(1, 0x3F800000)], v := [(3, 2 ^ 128 - 1)] } : Launch).stepV 0x4200D1D7 3 =
      some 0xFFFFFFFF3F800000 := by decide

/-- F7: the box is not checked. -/
theorem test_vfmv_s_f_ignores_upper_bits :
    ({ vsew := 2, vl := 1, f := [(1, 0x40000000)], v := [(3, 2 ^ 128 - 1)] } : Launch).stepV 0x4200D1D7 3 = some 0x40000000 := by
  decide

/-- U1x, the upper register of the group. -/
theorem test_vslideup_vx : slide.stepV 0x3A42C157 3 = some 0x0000006B0000006A0000000C0000000B := by decide

/-- U2: mask elements 1, 3, 5. -/
theorem test_vslideup_vi_masked : slide.stepV 0x3841B157 3 = some 0x0000006B0000006A0000000C00000068 := by decide

/-- U2 with MLEN = SEW/LMUL = 16. -/
theorem test_vslideup_vi_masked_wide_mask :
    ({ cfg := config32, vsew := 2, lmul := .m2, vl := 6, v := [(5, 0x00000011000000100000000F0000000E), (4, 0xD0000000C0000000B0000000A),
      (3, 0x0000006B0000006A0000006900000068), (0, 0x00000000000100000001000000010000)] } : Launch).stepV 0x3841B157 3 =
      some 0x0000006B0000006A0000000C00000068 := by decide

/-- D2: no wrap-around of i + OFFSET. -/
theorem test_vslidedown_vx_does_not_wrap :
    ({ slide with x := [(5, 2 ^ 64 - 1)] } : Launch).stepV 0x3E42C157 3 = some 0x0000006B0000006A0000000000000000 := by decide

/-- D3: in place. -/
theorem test_vslidedown_vi_in_place : slide.stepV 0x3E41B257 5 = some 0x00000011000000100000000000000011 := by decide

/-- 1U1: the scalar enters at element 0, truncated. -/
theorem test_vslide1up_vx :
    ({ slide with x := [(5, 0xDEADBEEF12345678)] } : Launch).stepV 0x3A42E157 2 = some 0x0000000C0000000B0000000A12345678 := by
  decide

/-- 1U5: sign extension. -/
theorem test_vslide1up_vx_sign_extends :
    ({ cfg := config32, vsew := 3, vl := 2, x := [(5, 0x80000000)], v := [(4, 0x20000000000000001)] } : Launch).stepV 0x3A42E157 2 =
      some 0x0000000000000001FFFFFFFF80000000 := by decide

/-- 1D4: vstart = vl - 1 inserts the scalar alone. -/
theorem test_vslide1down_vx_from_vstart :
    ({ slide with vstart := 5, x := [(5, 0x99)] } : Launch).stepV 0x3E42E157 3 = some 0x0000006B0000006A0000009900000068 := by decide

/-- 1D6: zero extension. -/
theorem test_vslide1down_vx_zero_extends :
    ({ cfg := config32, vsew := 3, vl := 2, x := [(5, 0x80000000)], v := [(4, 0x20000000000000001)] } : Launch).stepV 0x3E42E157 2 =
      some 0x00000000800000000000000000000002 := by decide

/-- G1: index 8 = VLMAX gives 0. -/
theorem test_vrgather_vv : gather.stepV 0x322081D7 3 = some 0x00A200A100A1000000A3000000A000A7 := by decide

/-- G4: masked. -/
theorem test_vrgather_vv_masked : gather.stepV 0x302081D7 3 = some 0x00A200A100A100000053005200510050 := by decide

/-- G7: the index is not truncated. -/
theorem test_vrgather_vx_full_index : ({ gather with x := [(5, 0x100000002)] } : Launch).stepV 0x3222C1D7 3 = some 0 := by decide

/-- G8: a source element past vl. -/
theorem test_vrgather_vi : ({ gather with vl := 3 } : Launch).stepV 0x3223B1D7 3 = some 0x0057005600550054005300A700A700A7 := by
  decide

/-- C1, the source's own example. -/
theorem test_vcompress_vm : compress.stepV 0x5E102157 2 = some 0xEEEEEEEEEEEEEE010203040807050200 := by decide

/-- C5: vstart = 1 faults. -/
theorem test_vcompress_vm_vstart : ({ compress with vstart := 1 } : Launch).stepFault 0x5E102157 = some (0x1000, 0x5E102157#32) := by
  decide

/-- W1: vl, vstart and vill ignored. -/
theorem test_vmv1r_v_ignores_vill :
    ({ vstart := 7, vill := true, v := [(2, 0x0123456789ABCDEF0011223344556677)] } : Launch).stepV 0x9E2030D7 1 =
      some 0x0123456789ABCDEF0011223344556677 := by decide

/-- W2: the second register. -/
theorem test_vmv2r_v : ({ v := [(12, 0xAA), (13, 0xBB)] } : Launch).stepV 0x9EC0B557 11 = some 0xBB := by decide

/-- T4: the last register. -/
theorem test_vmv4r_v : ({ v := [(11, 0xBB)] } : Launch).stepV 0x9E81B257 7 = some 0xBB := by decide

/-- W4: v6 is not a multiple of 4. -/
theorem test_vmv4r_v_unaligned : ({} : Launch).stepFault 0x9E61B257 = some (0x1000, 0x9E61B257#32) := by decide

/-- T5: the last register. -/
theorem test_vmv8r_v : ({ v := [(15, 0xBB)] } : Launch).stepV 0x9E83B057 7 = some 0xBB := by decide

/-! ### Faults and control state -/

/-- S6, U8, U9, U10, U11, D6, 1U6, 1D7, G10, G11, C6, C7. -/
theorem test_illegal_operands :
    ({ vill := true } : Launch).stepFault 0x422022D7 = some (0x1000, 0x422022D7#32) ∧
    slide.stepFault 0x3A40B257 = some (0x1000, 0x3A40B257#32) ∧ slide.stepFault 0x3840B057 = some (0x1000, 0x3840B057#32) ∧
    slide.stepFault 0x3A40B1D7 = some (0x1000, 0x3A40B1D7#32) ∧
    ({ slide with vl := 0 } : Launch).stepFault 0x3A40B257 = some (0x1000, 0x3A40B257#32) ∧
    slide.stepFault 0x3C40B057 = some (0x1000, 0x3C40B057#32) ∧ slide.stepFault 0x3A42E257 = some (0x1000, 0x3A42E257#32) ∧
    slide.stepFault 0x3C42E057 = some (0x1000, 0x3C42E057#32) ∧ gather.stepFault 0x32208157 = some (0x1000, 0x32208157#32) ∧
    gather.stepFault 0x322080D7 = some (0x1000, 0x322080D7#32) ∧ compress.stepFault 0x5E1020D7 = some (0x1000, 0x5E1020D7#32) ∧
    compress.stepFault 0x5E102057 = some (0x1000, 0x5E102057#32) := by decide

/-- D7: vstart = vl, nothing moves; vstart cleared and pc advanced. -/
theorem test_slide_past_vl :
    ({ slide with vstart := 6 } : Launch).stepV 0x3E41B157 2 = some 0x00000067000000660000006500000064 ∧
    ({ slide with vstart := 6 } : Launch).stepControl 0x3E41B157 = some (0, 0x1004) := by decide

/-- x[0] discards: S4. -/
theorem test_x0_discards : ({ vsew := 2, v := [(2, 0x80000001)] } : Launch).stepX 0x42202057 0 = some 0 := by decide

/-- pc wraps at 2^XLEN (R22). -/
theorem test_pc_wraps : ({ cfg := config32, pc := 0xFFFFFFFC } : Launch).stepControl 0x9E2030D7 = some (0, 0) := by decide

/-! ### Witnesses: states and operands that meet the hypotheses of each statement -/

section Witnesses

/-- Ranges one of which ends before the other begins share no register. -/
theorem apart_of {a na b nb : Nat} (h : a + na ≤ b ∨ b + nb ≤ a) : ¬ ShareRegister a na b nb := by
  rintro ⟨r, h1, h2⟩
  simp only [InRange] at h1 h2
  omega

/-- A placed word, launchable, fetched and decoded. -/
abbrev placed (w : Nat) : State := ({ slide with vl := 8 } : Launch).state.withFetchWord 32 w

theorem test_witness_DecodedWordIsItsInstructionsEncoding :
    decodeWord 0x33FFBFD7#32 = .instr (.vrgatherVi 31 31 31 true) := by decide

theorem test_witness_OpcodeMapDecodesExactlyTheTableRows :
    0x422022D7#32 &&& 0xFE0FF07F#32 = 0x42002057#32 ∧ 0x4202E0D7#32 &&& 0xFFF0707F#32 = 0x42006057#32 ∧
    0x422010D7#32 &&& 0xFE0FF07F#32 = 0x42001057#32 ∧ 0x4200D1D7#32 &&& 0xFFF0707F#32 = 0x42005057#32 ∧
    0x3A42C157#32 &&& 0xFC00707F#32 = 0x38004057#32 ∧ 0x3841B157#32 &&& 0xFC00707F#32 = 0x38003057#32 ∧
    0x3E42C157#32 &&& 0xFC00707F#32 = 0x3C004057#32 ∧ 0x3E41B157#32 &&& 0xFC00707F#32 = 0x3C003057#32 ∧
    0x3A42E157#32 &&& 0xFC00707F#32 = 0x38006057#32 ∧ 0x3E42E157#32 &&& 0xFC00707F#32 = 0x3C006057#32 ∧
    0x322081D7#32 &&& 0xFC00707F#32 = 0x30000057#32 ∧ 0x3222C1D7#32 &&& 0xFC00707F#32 = 0x30004057#32 ∧
    0x3223B1D7#32 &&& 0xFC00707F#32 = 0x30003057#32 ∧ 0x5E102157#32 &&& 0xFE00707F#32 = 0x5E002057#32 ∧
    0x9E2030D7#32 &&& 0xFE0FF07F#32 = 0x9E003057#32 ∧ 0x9EC0B557#32 &&& 0xFE0FF07F#32 = 0x9E00B057#32 ∧
    0x9E81B257#32 &&& 0xFE0FF07F#32 = 0x9E01B057#32 ∧ 0x9E83B057#32 &&& 0xFE0FF07F#32 = 0x9E03B057#32 := by decide

theorem test_witness_StepRunsTheDecodedInstruction :
    (placed 0x3E42E157).launchRefusal = none ∧ (placed 0x3E42E157).fetchWord = some 0x3E42E157#32 ∧
    decodeWord 0x3E42E157#32 = .instr (.vslide1downVx 2 4 5 true) := by decide

theorem test_witness_FetchReadsFourBytesLittleEndian :
    (placed 0x3E42E157).mem.read 0x1000 = some 0x57 ∧ (placed 0x3E42E157).mem.read 0x1001 = some 0xE1 ∧
    (placed 0x3E42E157).mem.read 0x1002 = some 0x42 ∧ (placed 0x3E42E157).mem.read 0x1003 = some 0x3E ∧
    slide.state.mem.read 0x1000 = none ∧ ({ mem := [(0x1000, 1), (0x1001, 2), (0x1002, 3)] } : Launch).state.mem.read 0x1003 = none := by
  decide

theorem test_witness_PlacedWordIsTheFetchedWord :
    0xFFF < (placed 0).pc.toNat ∧ (placed 0).pc.toNat + 4 ≤ 0x1004 ∧ (placed 0).mem.wf = true := by decide

theorem test_witness_ReservedWordsRaiseIllegalInstruction :
    (∀ w ∈ [0x402022D7#32, 0x402010D7#32, 0x4002E0D7#32, 0x4000D1D7#32, 0x5C102157#32, 0x9E813257#32, 0x9E843257#32, 0x9C2030D7#32],
      FitsReserved w) ∧
    (placed 0x9C2030D7).launchRefusal = none ∧ (placed 0x9C2030D7).fetchWord = some 0x9C2030D7#32 := by
  refine ⟨by simp [FitsReserved], by decide, by decide⟩

theorem test_witness_WordsOutsideTheScopeAreRefused :
    (∀ w ∈ [0x422822D7#32, 0x4212E0D7#32, 0x00000013#32], ¬ FitsOpcodeMap w ∧ ¬ FitsReserved w) ∧
    (placed 0x4212E0D7).launchRefusal = none ∧ (placed 0x4212E0D7).fetchWord = some 0x4212E0D7#32 := by
  refine ⟨by simp [FitsOpcodeMap, FitsReserved], by decide, by decide⟩

theorem test_witness_StepPastTheTextIsRefused : slide.state.launchRefusal = none ∧ slide.state.fetchWord = none ∧
    slide.refusal = some (.endOfText 0x1000) := by decide

/-- A text that goes on from the last four bytes of a 32-bit address space to address 0. -/
def wrapping : Launch :=
  { cfg := config32, pc := 0xFFFFFFFC, vl := 16
    mem := [(0, 1), (0xFFFFFFFC, 0x57), (0xFFFFFFFD, 2), (0xFFFFFFFE, 3), (0xFFFFFFFF, 4)] }

/-- The same text going on at address 2^32 instead, with vill set. -/
def overrunning : Launch :=
  { cfg := config32, pc := 0xFFFFFFFC, vill := true
    mem := [(0xFFFFFFFC, 0x57), (0xFFFFFFFD, 2), (0xFFFFFFFE, 3), (0xFFFFFFFF, 4), (0x100000000, 5)] }

/-- The bytes from the pc of both to the top. -/
theorem test_witness_FailedLaunchPremisesAreRefused_listed (a : Nat) (h : 0xFFFFFFFC ≤ a) (h' : a < 2 ^ 32) :
    (wrapping.state.mem.read a).isSome = true ∧ (overrunning.state.mem.read a).isSome = true := by
  obtain rfl | rfl | rfl | rfl : a = 0xFFFFFFFC ∨ a = 0xFFFFFFFD ∨ a = 0xFFFFFFFE ∨ a = 0xFFFFFFFF := by omega
  all_goals decide

theorem test_witness_FailedLaunchPremisesAreRefused :
    ({ pc := 0x1001 } : Launch).state.pc.toNat % 4 ≠ 0 ∧ ({ pc := 0x1001 } : Launch).refusal = some (.misalignedPc 0x1001) ∧
    ({ vl := 17 } : Launch).state.pc.toNat % 4 = 0 ∧ ({ vl := 17 } : Launch).state.vlmax < ({ vl := 17 } : Launch).state.vl.toNat ∧
    ({ vl := 17 } : Launch).refusal = some (.vlAboveVlmax 17 16) ∧
    wrapping.state.pc.toNat % 4 = 0 ∧ wrapping.state.vl.toNat ≤ wrapping.state.vlmax ∧ wrapping.state.mem.wf = true ∧
    (wrapping.state.mem.read 0).isSome = true ∧ wrapping.refusal = some (.textWraps 0xFFFFFFFC) ∧
    overrunning.state.pc.toNat % 4 = 0 ∧ overrunning.state.vill = true ∧ overrunning.state.mem.wf = true ∧
    (overrunning.state.mem.read (2 ^ overrunning.state.cfg.xlen)).isSome = true ∧
    overrunning.refusal = some (.textWraps 0xFFFFFFFC) := by decide

/-- A state that may run: the top byte is unlisted although address 0 is listed. -/
def gap : State :=
  ({ wrapping with mem := [(0, 1), (0xFFFFFFFC, 0x57), (0xFFFFFFFD, 2), (0xFFFFFFFE, 3)] } : Launch).state

/-- A state that may run: its text ends at the top, vl = VLMAX, vstart past it. -/
def atTop : State :=
  ({ cfg := config32, pc := 0xFFFFFFFC, vl := 16, vstart := 17 } : Launch).state.withFetchWord 32 0x9E2030D7

theorem test_witness_FailedLaunchPremisesAreRefused_converse :
    gap.pc.toNat % 4 = 0 ∧ gap.vl.toNat ≤ gap.vlmax ∧ gap.mem.wf = true ∧ gap.pc.toNat ≤ 0xFFFFFFFF ∧
    0xFFFFFFFF < 2 ^ gap.cfg.xlen ∧ gap.mem.read 0xFFFFFFFF = none ∧ gap.launchRefusal = none ∧
    atTop.pc.toNat % 4 = 0 ∧ atTop.vl.toNat = atTop.vlmax ∧ atTop.mem.wf = true ∧ atTop.mem.read 0 = none ∧
    atTop.mem.read (2 ^ atTop.cfg.xlen) = none ∧ atTop.launchRefusal = none := by decide

theorem test_witness_StepFaultReportsPcAndFetchedWord :
    slide.stepFault 0x3A40B257 = some (0x1000, 0x3A40B257#32) ∧ slide.stepFault 0x5C102157 = some (0x1000, 0x5C102157#32) := by decide

theorem test_witness_EveryStepKeepsTheInvariant :
    ((placed 0x3E42E157).x[0] = 0 ∧ (placed 0x3E42E157).mem.wf = true ∧ (placed 0x3E42E157).launchRefusal = none) ∧
    ({ slide with vl := 8 } : Launch).stepControl 0x3E42E157 = some (0, 0x1004) := by decide

/-- An instruction that completes, with the other instructions of the tests above: the hypothesis `exec i s = .next t` of the
statements about completion, vl, vtype, memory and scalar registers. -/
theorem test_witness_CompletionClearsVstartAndAdvancesPc :
    ∃ t, exec (.vslide1downVx 2 4 5 true) slide.state = .next t := ⟨_, rfl⟩

theorem test_witness_NoInstructionWritesVlVtypeOrMemory :
    ∃ t, exec (.vmv8rV 0 8) (placed 0x9E83B057) = .next t := ⟨_, rfl⟩

theorem test_witness_ScalarRegistersChangeOnlyByScalarMoves :
    (∃ t, exec (.vmvXS 5 2) slide.state = .next t) ∧ (∃ t, exec (.vfmvFS 1 2) slide.state = .next t) ∧
    (∀ vs2, Instr.vmvXS 5 2 ≠ .vmvXS 6 vs2) ∧ (∀ vs2, Instr.vmvXS 5 2 ≠ .vfmvFS 1 vs2) := by
  refine ⟨⟨_, rfl⟩, ⟨_, rfl⟩, ?_, ?_⟩ <;> simp

theorem test_witness_XZeroReadsZeroAndOthersHoldWhatWasWritten : (31 : XReg) ≠ 0 ∧ (0 : XReg) ≠ 31 := by decide

theorem test_witness_IllFormedInstructionNeverCompletes : (Instr.vmv2rV 3 4).wellFormed = false := by decide

theorem test_witness_WellFormedInstructionCompletesAtLmulOne :
    (Instr.vcompressVm 2 1 0).wellFormed = true ∧ compress.state.vill = false ∧ compress.state.lmul = .m1 ∧
    compress.state.vstart.toNat = 0 := by decide

theorem test_witness_RunAdvancesFourBytesPerStep :
    (∃ t, core.run 0 (placed 0x3E42E157) = .next t) ∧ (∃ t, core.run 1 (placed 0x3E42E157) = .next t) :=
  ⟨⟨_, rfl⟩, ⟨_, rfl⟩⟩

theorem test_witness_RunOfTheTextTakesAtMostItsWords :
    (placed 0x3E42E157).pc.toNat + 4 * 1 < 2 ^ (placed 0x3E42E157).cfg.xlen ∧
    (placed 0x3E42E157).mem.read ((placed 0x3E42E157).pc.toNat + 4 * 1) = none ∧
    ∃ t, core.run 1 (placed 0x3E42E157) = .next t := ⟨by decide, by decide, _, rfl⟩

/-- The smallest ELEN and VLEN, and ELEN = VLEN; both widths are reached. -/
theorem test_witness_ParametersCoverTheirDomains :
    8 ≤ 2 ^ 3 ∧ 64 ≤ 2 ^ 6 ∧ 2 ^ 3 ≤ 2 ^ 6 ∧ 2 ^ 6 ≤ 2 ^ 6 ∧
    config32.xlen = 32 ∧ config32.flen = 32 ∧ resetConfig.xlen = 64 ∧ resetConfig.flen = 64 := by decide

/-- The last bit of the last element of the highest group: LMUL = 8, v24 to v31; and a bit just below that element. -/
theorem test_witness_ElementsLieAsAddressed :
    ({ lmul := .m8 } : Launch).state.Grouped 24 ∧ 127 < ({ lmul := .m8 } : Launch).state.vlmax ∧
    127 < ({ lmul := .m8 } : Launch).state.cfg.vlen ∧
    31 = 24 + 127 / 16 ∧ 127 % 16 * 8 ≤ 127 ∧ 127 < 127 % 16 * 8 + 8 ∧
    ({ lmul := .m8 } : Launch).state.cfg.vlen / ({ lmul := .m8 } : Launch).state.sew = 16 ∧ ¬ 127 % 16 * 8 ≤ 119 :=
  ⟨⟨3, rfl⟩, by decide, by decide, by decide, by decide, by decide, by decide, by decide⟩

theorem test_witness_MaskElementsLieInOneRegister :
    ({} : Launch).state.cfg.maskLayout = .oneBit ∧ ({ cfg := config32 } : Launch).state.cfg.maskLayout = .sewOverLmul := by decide

theorem test_witness_OverlapMeansASharedRegister :
    ShareRegister 2 2 3 1 ∧ ¬ ShareRegister 2 2 4 2 ∧ slide.state.Grouped 2 ∧ slide.state.Grouped 30 :=
  ⟨⟨3, by simp [InRange]⟩, apart_of (by decide), ⟨1, rfl⟩, ⟨15, rfl⟩⟩

/-- FLEN = 64, SEW = 32: f[1] and f[2] agree on the low 32 bits only, and so do v[1] and v[2] (F6, F7). -/
def boxes : Launch := { vsew := 2, vl := 1, f := [(1, 0xFFFFFFFF40000000), (2, 0x40000000)], v := [(1, 0xAA40000000), (2, 0xBB40000000)] }

theorem test_witness_OnesExtensionIsABitOperation :
    3 < 8 ∧ 3 < 4 ∧ ¬ 7 < 4 ∧ boxes.state.vill = false ∧
    (∀ k : Fin 32, (boxes.state.readF 1).getLsbD k = (boxes.state.readF 2).getLsbD k) ∧
    (∀ k : Fin 32, (boxes.state.v[(1 : VReg)]).getLsbD k = (boxes.state.v[(2 : VReg)]).getLsbD k) ∧ boxes.state.sew = 32 := by decide

/-- The four scalar moves and `ScalarReadsIgnoreVlVstartAndLmul`: vtype valid with vstart below vl, vtype valid with vl = vstart, vill,
and their reserved words. -/
theorem test_witness_scalar_moves :
    slide.state.vill = false ∧ slide.state.vstart.toNat < slide.state.vl.toNat ∧
    ({ slide with vstart := 6 } : Launch).state.vl.toNat ≤ ({ slide with vstart := 6 } : Launch).state.vstart.toNat ∧
    ({ vill := true } : Launch).state.vill = true ∧
    0x402022D7#32 &&& 0xFE0FF07F#32 = 0x40002057#32 ∧ 0x4002E0D7#32 &&& 0xFFF0707F#32 = 0x40006057#32 ∧
    0x402010D7#32 &&& 0xFE0FF07F#32 = 0x40001057#32 ∧ 0x4000D1D7#32 &&& 0xFFF0707F#32 = 0x40005057#32 := by decide

/-- `VslideupVx…`, `VslideupVi…` and `Vslide1upVx…`: unmasked and masked, and each cause of a fault: vill, alignment, overlap, mask. -/
theorem test_witness_slide_up :
    slide.state.SlideUpAllowed 2 4 true ∧ slide.state.SlideUpAllowed 2 4 false ∧
    ¬ ({ vill := true } : Launch).state.SlideUpAllowed 2 4 true ∧ ¬ slide.state.SlideUpAllowed 3 4 true ∧
    ¬ slide.state.SlideUpAllowed 4 4 true ∧ ¬ slide.state.SlideUpAllowed 0 4 false := by
  refine ⟨⟨rfl, ⟨1, rfl⟩, ⟨2, rfl⟩, apart_of (by decide), .inl rfl⟩,
    ⟨rfl, ⟨1, rfl⟩, ⟨2, rfl⟩, apart_of (by decide), .inr (apart_of (by decide))⟩, ?_, ?_, ?_, ?_⟩
  · exact fun h => absurd h.1 (by decide)
  · exact fun h => absurd (show 2 ∣ 3 from h.2.1) (by decide)
  · exact fun h => h.2.2.2.1 ⟨4, by simp [InRange, slide, Launch.state, Lmul.regs]⟩
  · exact fun h => h.2.2.2.2.elim (by decide) (fun h => h ⟨0, by simp [InRange, slide, Launch.state, Lmul.regs]⟩)

/-- `VslidedownVx…`, `VslidedownVi…` and `Vslide1downVx…`: in place too, with vl <= VLMAX at its bound. -/
theorem test_witness_slide_down :
    ({ slide with vl := 8 } : Launch).state.SlideDownAllowed 4 4 true ∧
    ({ slide with vl := 8 } : Launch).state.vl.toNat ≤ ({ slide with vl := 8 } : Launch).state.vlmax ∧
    slide.state.SlideDownAllowed 2 4 false ∧ ¬ slide.state.SlideDownAllowed 3 4 true ∧ ¬ slide.state.SlideDownAllowed 0 4 false := by
  refine ⟨⟨rfl, ⟨2, rfl⟩, ⟨2, rfl⟩, .inl rfl⟩, by decide, ⟨rfl, ⟨1, rfl⟩, ⟨2, rfl⟩, .inr (apart_of (by decide))⟩, ?_, ?_⟩
  · exact fun h => absurd (show 2 ∣ 3 from h.2.1) (by decide)
  · exact fun h => h.2.2.2.elim (by decide) (fun h => h ⟨0, by simp [InRange, slide, Launch.state, Lmul.regs]⟩)

/-- `VrgatherVv…`, `VrgatherVx…` and `VrgatherVi…`. -/
theorem test_witness_gather :
    gather.state.GatherAllowed 3 2 true ∧ gather.state.GatherAllowed 3 2 false ∧ ¬ gather.state.GatherAllowed 2 2 true ∧
    gather.state.GatherIndexAllowed 3 2 1 true ∧ gather.state.GatherIndexAllowed 3 2 2 false ∧
    ¬ gather.state.GatherIndexAllowed 1 2 1 true := by
  refine ⟨⟨rfl, ⟨3, rfl⟩, ⟨2, rfl⟩, apart_of (by decide), .inl rfl⟩,
    ⟨rfl, ⟨3, rfl⟩, ⟨2, rfl⟩, apart_of (by decide), .inr (apart_of (by decide))⟩, ?_,
    ⟨rfl, ⟨3, rfl⟩, ⟨2, rfl⟩, ⟨1, rfl⟩, apart_of (by decide), apart_of (by decide), .inl rfl⟩,
    ⟨rfl, ⟨3, rfl⟩, ⟨2, rfl⟩, ⟨2, rfl⟩, apart_of (by decide), apart_of (by decide), .inr (apart_of (by decide))⟩, ?_⟩
  · exact fun h => h.2.2.2.1 ⟨2, by simp [InRange, gather, Launch.state, Lmul.regs]⟩
  · exact fun h => h.2.2.2.2.2.1 ⟨1, by simp [InRange, gather, Launch.state, Lmul.regs]⟩

/-- The two statements on `vcompress.vm`, and its clause of `InactiveElementsAreUnchanged`: legal with a set mask element below vl
(8 is the last one), and with elements past the selected ones; illegal by
overlap, by the mask register and by vstart. -/
theorem test_witness_compress :
    compress.state.CompressAllowed 2 1 0 ∧ compress.state.vl.toNat ≤ compress.state.vlmax ∧ compress.state.maskBit 0 8 = true ∧
    8 < compress.state.vl.toNat ∧ Nat.count (fun k => compress.state.maskBit 0 k = true) compress.state.vl.toNat ≤ 5 ∧
    ¬ compress.state.CompressAllowed 1 1 0 ∧ ¬ compress.state.CompressAllowed 0 1 0 ∧
    ({ compress with vstart := 1 } : Launch).state.vstart.toNat ≠ 0 := by
  refine ⟨⟨rfl, ⟨2, rfl⟩, ⟨1, rfl⟩, rfl, apart_of (by decide), apart_of (by decide)⟩, by decide, by decide, by decide, by decide,
    ?_, ?_, by decide⟩
  · exact fun h => h.2.2.2.2.1 ⟨1, by simp [InRange, compress, Launch.state, Lmul.regs]⟩
  · exact fun h => h.2.2.2.2.2 ⟨0, by simp [InRange, compress, Launch.state, Lmul.regs]⟩

/-- A slide whose vstart equals vl, one with vl = 0, legal and illegal. -/
theorem test_witness_SlidesPerformNoOperationPastVl :
    (Instr.vslideupVi 2 4 3 true).isSlide = true ∧ ({ slide with vstart := 6 } : Launch).state.vl.toNat ≤ 6 ∧
    ({ slide with vl := 0 } : Launch).state.vl.toNat = 0 ∧ ¬ IllegalCause ({ slide with vl := 0 } : Launch).state (.vslideupVi 2 4 3 true) ∧
    IllegalCause ({ slide with vl := 0 } : Launch).state (.vslideupVi 4 4 3 true) := by
  refine ⟨rfl, by decide, by decide, fun h => h ⟨rfl, ⟨1, rfl⟩, ⟨2, rfl⟩, apart_of (by decide), .inl rfl⟩, ?_⟩
  exact fun h => h.2.2.2.1 ⟨4, by simp [InRange, slide, Launch.state, Lmul.regs]⟩

/-- A masked slide with mask elements on and off, prestart and tail elements. -/
theorem test_witness_MaskElementControlsItsDestinationElement :
    (Instr.vslideupVi 2 4 3 false).isSlide = true ∧ (Instr.vslideupVi 2 4 3 false).unmasked = false ∧
    (Instr.vslideupVi 2 4 3 false).bodyDestination = some 2 ∧ ¬ IllegalCause slide.state (.vslideupVi 2 4 3 false) ∧
    slide.state.maskBit 0 5 = true ∧ slide.state.maskBit 0 4 = false ∧ slide.state.vl.toNat ≤ 6 ∧ 7 < slide.state.vlmax := by
  refine ⟨rfl, rfl, rfl, fun h => h ⟨rfl, ⟨1, rfl⟩, ⟨2, rfl⟩, apart_of (by decide), .inr (apart_of (by decide))⟩, ?_⟩
  decide

theorem test_witness_InactiveElementsAreUnchanged :
    (Instr.vrgatherVi 3 2 7 false).bodyDestination = some 3 ∧ ¬ IllegalCause gather.state (.vrgatherVi 3 2 7 false) ∧
    gather.state.maskBit 0 3 = false ∧ gather.state.vstart.toNat < gather.state.vl.toNat ∧
    1 < gather.state.cfg.vlen / gather.state.sew := by
  refine ⟨rfl, fun h => h ⟨rfl, ⟨3, rfl⟩, ⟨2, rfl⟩, apart_of (by decide), .inr (apart_of (by decide))⟩, ?_⟩
  decide

/-- D3 stopped after element 2: V is what the whole instruction makes of group v4 (95_test_vectors.md D3), W holds its elements 0 to 2
and the original elements 3 to 7. -/
theorem test_witness_RestartFromVstartGivesTheUninterruptedResult :
    (Instr.vslidedownVi 4 4 3 true).bodyDestination = some 4 ∧ slide.state.vl.toNat ≤ slide.state.vlmax ∧
    (∃ V : Vector (BitVec slide.state.cfg.vlen) 32, CompletesWithV (.vslidedownVi 4 4 3 true) slide.state V ∧
      ∃ W : Vector (BitVec slide.state.cfg.vlen) 32, slide.state.SameOutside 4 W ∧
        ∀ j, j < slide.state.vlmax →
          readElem slide.state.sew W 4 j = if j < 3 then readElem slide.state.sew V 4 j else slide.state.elem 4 j) ∧
    slide.state.vstart.toNat ≤ 3 ∧ 3 ≤ slide.state.vl.toNat := by
  refine ⟨rfl, by decide, ⟨_, rfl, slide.state.v.set 4 0x0000000D0000000F0000000E0000000D, ?_, ?_⟩, by decide, by decide⟩
  · intro r hr
    have h : r ≠ 4 := by rintro rfl; exact hr (by simp [InRange, slide, Launch.state, Lmul.regs])
    have h' : ¬ (4 : Nat) = r.val := fun h' => h (Fin.ext h'.symm)
    simp [h']
  · intro j hj
    have h8 : j < 8 := hj
    interval_cases j <;> decide

/-- `Vmv2rV…`, `Vmv4rV…`, `Vmv8rV…` at the highest aligned and unaligned numbers, and `WholeMovesIgnoreVectorControl`. -/
theorem test_witness_whole_moves :
    (31 : VReg).val % 2 ≠ 0 ∧ (30 : VReg).val % 2 = 0 ∧ (30 : VReg).val % 4 ≠ 0 ∧ (28 : VReg).val % 4 = 0 ∧
    (28 : VReg).val % 8 ≠ 0 ∧ (24 : VReg).val % 8 = 0 ∧ (Instr.vmv8rV 24 8).wellFormed = true := by decide

theorem test_witness_SameRegisterMovesAndXZeroDestinationsChangeNothing :
    (24 : VReg).val % 8 = 0 ∧ (24 : VReg).val % 4 = 0 ∧ (24 : VReg).val % 2 = 0 ∧ slide.state.vill = false := by decide

end Witnesses

end Sys2Proof.Tests
end

namespace Sys2Proof.Proofs

open Sys2Proof.Machine

/-! ### Writes that change nothing -/

/-- Copying a block of registers onto itself, at any number and of any size, leaves every register as it was. -/
@[simp] theorem copyBlock_self {n : Nat} (V : Vector (BitVec n) 32) (nf b : Nat) : copyBlock V nf b b = V := by
  apply Vector.ext
  intro r hr
  have hread : readReg (copyBlock V nf b b) r = readReg V r := by
    rw [readReg_copyBlock V nf b b r hr]
    split
    next hin => rw [Nat.add_sub_cancel' hin.1]
    next => rfl
  simpa [readReg, hr] using hread

@[simp] theorem copyRegs_self (s : State) (nf : Nat) (r : VReg) : s.copyRegs nf r r = s := by
  simp [State.copyRegs]

/-- A write to x[0] is discarded (10_state.md R21). -/
@[simp] theorem setX_zero (s : State) (a : BitVec s.cfg.xlen) : s.setX 0 a = s := by
  simp [State.setX]

theorem wholeAligned_self {nf : Nat} {r : VReg} : wholeAligned nf r r = true ↔ r.val % nf = 0 := by
  simp [wholeAligned]

/-! ### The meanings dispatched to -/

theorem exec_vmvXS (rd : XReg) (vs2 : VReg) (s : State) :
    exec (.vmvXS rd vs2) s =
      completeIf (!s.vill) (.vmvXS rd vs2) s (s.setX rd (fitZero s.cfg.xlen (s.elem vs2 0))) := rfl

theorem exec_vmv1rV (vd vs2 : VReg) (s : State) :
    exec (.vmv1rV vd vs2) s = completeIf (wholeAligned 1 vd vs2) (.vmv1rV vd vs2) s (s.copyRegs 1 vd vs2) := rfl

theorem exec_vmv2rV (vd vs2 : VReg) (s : State) :
    exec (.vmv2rV vd vs2) s = completeIf (wholeAligned 2 vd vs2) (.vmv2rV vd vs2) s (s.copyRegs 2 vd vs2) := rfl

theorem exec_vmv4rV (vd vs2 : VReg) (s : State) :
    exec (.vmv4rV vd vs2) s = completeIf (wholeAligned 4 vd vs2) (.vmv4rV vd vs2) s (s.copyRegs 4 vd vs2) := rfl

theorem exec_vmv8rV (vd vs2 : VReg) (s : State) :
    exec (.vmv8rV vd vs2) s = completeIf (wholeAligned 8 vd vs2) (.vmv8rV vd vs2) s (s.copyRegs 8 vd vs2) := rfl

/-! ### Instructions that change nothing but pc and vstart -/

/-- A legal instruction whose writes leave the state as it was keeps the vector registers too. -/
theorem completesWithV_of_unwritten {i : Instr} {s t : State} {legal : Bool} (hexec : exec i s = completeIf legal i s t)
    (hlegal : legal = true) (hsame : t = s) : CompletesWithV i s s.v := by
  subst hsame
  exact hexec.trans (completeIf_eq_next.mpr ⟨hlegal, rfl⟩)

/-- A whole-register move of any size whose source is its own destination changes nothing, where its one register number
is aligned. -/
theorem completesWithV_of_copy_self {i : Instr} {s : State} {nf : Nat} {r : VReg}
    (hexec : exec i s = completeIf (wholeAligned nf r r) i s (s.copyRegs nf r r)) (haligned : r.val % nf = 0) :
    CompletesWithV i s s.v :=
  completesWithV_of_unwritten hexec (wholeAligned_self.mpr haligned) (copyRegs_self s nf r)

/-- `vmv.x.s` into x0 reads its element and discards it. -/
theorem vmvXS_zero_completesWithV {s : State} {vs2 : VReg} (hvill : s.vill = false) : CompletesWithV (.vmvXS 0 vs2) s s.v :=
  completesWithV_of_unwritten (exec_vmvXS 0 vs2 s) (by simp [hvill]) (setX_zero s _)

/-- Settles O59: the four moves are copies of a block onto itself, and the scalar move is a write to x[0]. -/
theorem sameRegisterMovesAndXZeroDestinationsChangeNothing :
    Obligations.SameRegisterMovesAndXZeroDestinationsChangeNothing := by
  intro s r vs2
  exact ⟨completesWithV_of_copy_self (exec_vmv1rV r r s) (Nat.mod_one _),
    completesWithV_of_copy_self (exec_vmv2rV r r s),
    completesWithV_of_copy_self (exec_vmv4rV r r s),
    completesWithV_of_copy_self (exec_vmv8rV r r s),
    vmvXS_zero_completesWithV⟩

end Sys2Proof.Proofs

namespace Sys2Proof.Proofs

open Sys2Proof.Machine

/-! ### The legality checks in terms of registers -/

/-- The interval test of R92 finds exactly the shared registers of two non-empty ranges. -/
theorem overlap_iff {a na b nb : Nat} (hna : 0 < na) (hnb : 0 < nb) :
    overlap a na b nb = true ↔ ShareRegister a na b nb := by
  simp only [overlap, ShareRegister, InRange, Bool.and_eq_true, decide_eq_true_eq]
  constructor
  · intro h
    exact ⟨max a b, by omega, by omega⟩
  · rintro ⟨r, ha, hb⟩
    omega

theorem overlap_eq_false_iff {a na b nb : Nat} (hna : 0 < na) (hnb : 0 < nb) :
    overlap a na b nb = false ↔ ¬ ShareRegister a na b nb := by
  rw [← overlap_iff hna hnb, Bool.not_eq_true]

theorem aligned_iff {s : State} {r : VReg} : s.aligned r = true ↔ s.Grouped r := by
  simp [State.aligned, State.Grouped, Nat.dvd_iff_mod_eq_zero]

theorem groupsOverlap_eq_false_iff {s : State} {a b : VReg} : s.groupsOverlap a b = false ↔ s.Apart a b :=
  overlap_eq_false_iff s.lmul.regs_pos s.lmul.regs_pos

theorem groupHolds_eq_false_iff {s : State} {a r : VReg} :
    s.groupHolds a r = false ↔ ¬ ShareRegister a.val s.lmul.regs r.val 1 :=
  overlap_eq_false_iff s.lmul.regs_pos Nat.one_pos

theorem overwritesMask_eq_false_iff {s : State} {vd : VReg} {vm : Bool} :
    s.overwritesMask vd vm = false ↔ s.MaskKept vd vm := by
  cases vm <;> simp [State.overwritesMask, State.MaskKept, groupHolds_eq_false_iff]

theorem slideUpLegal_iff {s : State} {vd vs2 : VReg} {vm : Bool} :
    s.slideUpLegal vd vs2 vm = true ↔ s.SlideUpAllowed vd vs2 vm := by
  simp [State.slideUpLegal, State.SlideUpAllowed, aligned_iff, groupsOverlap_eq_false_iff, overwritesMask_eq_false_iff,
    and_assoc]

theorem slideDownLegal_iff {s : State} {vd vs2 : VReg} {vm : Bool} :
    s.slideDownLegal vd vs2 vm = true ↔ s.SlideDownAllowed vd vs2 vm := by
  simp [State.slideDownLegal, State.SlideDownAllowed, aligned_iff, overwritesMask_eq_false_iff, and_assoc]

theorem gatherLegal_iff {s : State} {vd vs2 : VReg} {vm : Bool} :
    s.gatherLegal vd vs2 vm = true ↔ s.GatherAllowed vd vs2 vm := by
  simp [State.gatherLegal, State.GatherAllowed, aligned_iff, groupsOverlap_eq_false_iff, overwritesMask_eq_false_iff,
    and_assoc]

theorem gatherIndexLegal_iff {s : State} {vd vs2 vs1 : VReg} {vm : Bool} :
    s.gatherIndexLegal vd vs2 vs1 vm = true ↔ s.GatherIndexAllowed vd vs2 vs1 vm := by
  simp only [State.gatherIndexLegal, State.GatherIndexAllowed, State.GatherAllowed, Bool.and_eq_true,
    Bool.not_eq_true', gatherLegal_iff, aligned_iff, groupsOverlap_eq_false_iff]
  tauto

theorem compressLegal_iff {s : State} {vd vs2 vs1 : VReg} :
    s.compressLegal vd vs2 vs1 = true ↔ s.CompressAllowed vd vs2 vs1 := by
  simp [State.compressLegal, State.CompressAllowed, aligned_iff, groupsOverlap_eq_false_iff, groupHolds_eq_false_iff,
    and_assoc]

/-! ### Active elements -/

theorem active_iff {s : State} {vm : Bool} {j : Nat} : s.active vm j = true ↔ s.Active vm j := by
  simp [State.active, State.maskOn, and_assoc]

/-- Prestart, tail and masked-off elements are the ones that are not active (40_common.md R94). -/
theorem active_eq_false_iff {s : State} {vm : Bool} {j : Nat} :
    s.active vm j = false ↔ j < s.vstart.toNat ∨ s.vl.toNat ≤ j ∨ (vm = false ∧ s.maskBit 0 j = false) := by
  rw [← Bool.not_eq_true, active_iff, not_and_or, not_and_or, not_or, Nat.not_le, Nat.not_lt, Bool.not_eq_true,
    Bool.not_eq_true]

/-- `t` is the state with active elements of the group at vd replaced, and nothing else changed. -/
def UpdatesActive (s t : State) (vd : VReg) (vm : Bool) : Prop :=
  ∃ new : Nat → Option (BitVec s.sew), t = s.updateGroup vd new ∧ ∀ j, s.active vm j = false → new j = none

theorem slideUp_updatesActive (s : State) (vd vs2 : VReg) (offset : Nat) (vm : Bool) :
    UpdatesActive s (s.slideUp vd vs2 offset vm) vd vm :=
  ⟨_, rfl, fun _ hinactive => by simp [hinactive]⟩

theorem slideDown_updatesActive (s : State) (vd vs2 : VReg) (offset : Nat) (vm : Bool) :
    UpdatesActive s (s.slideDown vd vs2 offset vm) vd vm :=
  ⟨_, rfl, fun _ hinactive => by simp [hinactive]⟩

theorem slide1Up_updatesActive (s : State) (vd vs2 : VReg) (scalar : BitVec s.sew) (vm : Bool) :
    UpdatesActive s (s.slide1Up vd vs2 scalar vm) vd vm :=
  ⟨_, rfl, fun _ hinactive => by simp [hinactive]⟩

theorem slide1Down_updatesActive (s : State) (vd vs2 : VReg) (scalar : BitVec s.sew) (vm : Bool) :
    UpdatesActive s (s.slide1Down vd vs2 scalar vm) vd vm :=
  ⟨_, rfl, fun _ hinactive => by simp [hinactive]⟩

theorem gather_updatesActive (s : State) (vd vs2 : VReg) (idx : Nat → Nat) (vm : Bool) :
    UpdatesActive s (s.gather vd vs2 idx vm) vd vm :=
  ⟨_, rfl, fun _ hinactive => by simp [hinactive]⟩

/-! ### The slides and gathers as one family -/

/-- What every slide and gather is: the checks of its rule, then an update of active elements of its destination. -/
theorem exec_of_bodyDestination {i : Instr} {vd : VReg} (s : State) (hdest : i.bodyDestination = some vd) :
    ∃ legal t, exec i s = completeIf legal i s t ∧ (legal = true ↔ ¬ IllegalCause s i) ∧
      UpdatesActive s t vd i.unmasked := by
  cases i <;> cases hdest
  case vslideupVx => exact ⟨_, _, rfl, slideUpLegal_iff.trans not_not.symm, slideUp_updatesActive ..⟩
  case vslideupVi => exact ⟨_, _, rfl, slideUpLegal_iff.trans not_not.symm, slideUp_updatesActive ..⟩
  case vslidedownVx => exact ⟨_, _, rfl, slideDownLegal_iff.trans not_not.symm, slideDown_updatesActive ..⟩
  case vslidedownVi => exact ⟨_, _, rfl, slideDownLegal_iff.trans not_not.symm, slideDown_updatesActive ..⟩
  case vslide1upVx => exact ⟨_, _, rfl, slideUpLegal_iff.trans not_not.symm, slide1Up_updatesActive ..⟩
  case vslide1downVx => exact ⟨_, _, rfl, slideDownLegal_iff.trans not_not.symm, slide1Down_updatesActive ..⟩
  case vrgatherVv => exact ⟨_, _, rfl, gatherIndexLegal_iff.trans not_not.symm, gather_updatesActive ..⟩
  case vrgatherVx => exact ⟨_, _, rfl, gatherLegal_iff.trans not_not.symm, gather_updatesActive ..⟩
  case vrgatherVi => exact ⟨_, _, rfl, gatherLegal_iff.trans not_not.symm, gather_updatesActive ..⟩

/-- The destination group of a legal slide or gather is aligned (40_common.md R91). -/
theorem grouped_of_bodyDestination {i : Instr} {s : State} {vd : VReg} (hdest : i.bodyDestination = some vd)
    (hlegal : ¬ IllegalCause s i) : s.Grouped vd := by
  cases i <;> cases hdest
  all_goals
    obtain ⟨_, hgrouped, _⟩ := not_not.mp hlegal
    exact hgrouped

/-- A legal instruction whose writes are an update of one group completes with the updated registers. -/
theorem completesWithV_of_updateGroup {i : Instr} {s : State} {legal : Bool} {vd : VReg}
    {new : Nat → Option (BitVec s.sew)} (hexec : exec i s = completeIf legal i s (s.updateGroup vd new))
    (hlegal : legal = true) : CompletesWithV i s (writeElems s.sew s.v vd.val s.vlmax new) :=
  hexec.trans (completeIf_eq_next.mpr ⟨hlegal, rfl⟩)

/-- The elements of an aligned group that an update gives no value stay as they were. -/
theorem readElem_updateGroup_none {s : State} {vd : VReg} {new : Nat → Option (BitVec s.sew)} {j : Nat}
    (hgrouped : s.Grouped vd) (hj : j < s.vlmax) (hnone : new j = none) :
    readElem s.sew (writeElems s.sew s.v vd.val s.vlmax new) vd.val j = s.elem vd j := by
  rw [State.readElem_updateGroup new (aligned_iff.mpr hgrouped) hj, hnone, Option.getD_none]

/-- A legal slide or gather leaves the elements of its destination that are not active as they were. -/
theorem body_keeps_inactive {i : Instr} {s : State} {vd : VReg} (hdest : i.bodyDestination = some vd)
    (hlegal : ¬ IllegalCause s i) :
    ∃ V : Vector (BitVec s.cfg.vlen) 32, CompletesWithV i s V ∧
      ∀ j, j < s.vlmax → s.active i.unmasked j = false → readElem s.sew V vd.val j = s.elem vd j := by
  obtain ⟨legal, _, hexec, hiff, new, rfl, hnone⟩ := exec_of_bodyDestination s hdest
  exact ⟨_, completesWithV_of_updateGroup hexec (hiff.mpr hlegal), fun j hj hinactive =>
    readElem_updateGroup_none (grouped_of_bodyDestination hdest hlegal) hj (hnone j hinactive)⟩

/-! ### The compress's tail -/

theorem exec_vcompressVm (vd vs2 vs1 : VReg) (s : State) :
    exec (.vcompressVm vd vs2 vs1) s =
      completeIf (s.compressLegal vd vs2 vs1) (.vcompressVm vd vs2 vs1) s (s.compress vd vs2 vs1) := rfl

/-- The compress selects at most vl elements: their indices are distinct and below vl. -/
theorem selected_length_le (s : State) (vs1 : VReg) : (s.selected vs1).length ≤ s.vl.toNat := by
  have hnodup : (s.selected vs1).Nodup := List.nodup_range.filter _
  have hbelow : s.selected vs1 ⊆ List.range s.vl.toNat := by
    intro i hi
    simp only [State.selected, List.mem_filter, Bool.and_eq_true, decide_eq_true_eq] at hi
    obtain ⟨_, hbody, _⟩ := hi
    exact List.mem_range.mpr hbody
  simpa using (hnodup.subperm hbelow).length_le

/-- A legal compress leaves the elements from vl up as they were. -/
theorem vcompressVm_keeps_tail {s : State} {vd vs2 vs1 : VReg} (hallowed : s.CompressAllowed vd vs2 vs1) :
    ∃ V : Vector (BitVec s.cfg.vlen) 32, CompletesWithV (.vcompressVm vd vs2 vs1) s V ∧
      ∀ j, s.vl.toNat ≤ j → j < s.vlmax → readElem s.sew V vd.val j = s.elem vd j := by
  refine ⟨_, completesWithV_of_updateGroup (exec_vcompressVm vd vs2 vs1 s) (compressLegal_iff.mpr hallowed), ?_⟩
  intro j htail hj
  have hunselected : (s.selected vs1)[j]? = none := List.getElem?_eq_none ((selected_length_le s vs1).trans htail)
  obtain ⟨_, hgrouped, _⟩ := hallowed
  exact readElem_updateGroup_none hgrouped hj (by rw [hunselected, Option.map_none])

/-! ### The moves to a vector register -/

theorem exec_vmvSX (vd : VReg) (rs1 : XReg) (s : State) :
    exec (.vmvSX vd rs1) s = completeIf (!s.vill) (.vmvSX vd rs1) s
      (if s.vstart.toNat < s.vl.toNat then s.setV vd (fitZero s.cfg.vlen (fitZero s.sew (s.readX rs1))) else s) := rfl

theorem exec_vfmvSF (vd : VReg) (rs1 : FReg) (s : State) :
    exec (.vfmvSF vd rs1) s = completeIf (!s.vill) (.vfmvSF vd rs1) s
      (if s.vstart.toNat < s.vl.toNat then s.setV vd (fitZero s.cfg.vlen (fitOnes s.sew (s.readF rs1))) else s) := rfl

/-- A register that holds one element and zeros above it: every element of it but element 0 is zero. -/
theorem readElem_set_fitZero {n sew j : Nat} (V : Vector (BitVec n) 32) (r : VReg) (e : BitVec sew) (hpos : 0 < j)
    (hj : j < n / sew) : readElem sew (V.set r (fitZero n e)) r.val j = 0 := by
  have hreg : readElem sew (V.set r (fitZero n e)) r.val j = (fitZero n e).extractLsb' (j * sew) sew := by
    simp [readElem, readReg, Nat.div_eq_of_lt hj, Nat.mod_eq_of_lt hj]
  rw [hreg]
  apply BitVec.eq_of_getLsbD_eq
  intro k hk
  have habove : sew ≤ j * sew + k := (Nat.le_mul_of_pos_left sew hpos).trans (Nat.le_add_right _ k)
  simp [fitZero, BitVec.getLsbD_of_ge e _ habove]

/-- A move of a scalar to element 0 that is legal and has a body zeroes the other elements of its one register. -/
theorem scalarMove_zeroes_above {i : Instr} {s : State} {vd : VReg} {e : BitVec s.sew}
    (hexec : exec i s = completeIf (!s.vill) i s
      (if s.vstart.toNat < s.vl.toNat then s.setV vd (fitZero s.cfg.vlen e) else s))
    (hvill : s.vill = false) (hbody : s.vstart.toNat < s.vl.toNat) :
    ∃ V : Vector (BitVec s.cfg.vlen) 32, CompletesWithV i s V ∧
      ∀ j, 0 < j → j < s.cfg.vlen / s.sew → readElem s.sew V vd.val j = 0 := by
  rw [if_pos hbody] at hexec
  have hcompletes : CompletesWithV i s (s.v.set vd (fitZero s.cfg.vlen e)) :=
    hexec.trans (completeIf_eq_next.mpr ⟨by simp [hvill], rfl⟩)
  exact ⟨_, hcompletes, fun j => readElem_set_fitZero s.v vd e⟩

/-! ### The elements of a group -/

/-- VLMAX * SEW = LMUL * VLEN: the elements below VLMAX are all bits of the group. -/
theorem vlmax_mul_sew (s : State) : s.vlmax * s.sew = s.lmul.regs * s.cfg.vlen := by
  rw [s.vlmax_eq, Nat.mul_assoc, ← s.vlen_eq]

/-- Settles O47: a slide or gather gives its inactive elements no value, a compress none past its selected elements, and
the two moves write one element with zeros above it. -/
theorem inactiveElementsAreUnchanged : Obligations.InactiveElementsAreUnchanged := by
  refine ⟨?body, fun _ _ _ _ => vcompressVm_keeps_tail, ?moves, vlmax_mul_sew⟩
  case body =>
    intro i s vd hdest hlegal
    obtain ⟨V, hcompletes, hkeeps⟩ := body_keeps_inactive hdest hlegal
    exact ⟨V, hcompletes, fun j hj hinactive => hkeeps j hj (active_eq_false_iff.mpr hinactive)⟩
  case moves =>
    rintro s vd r i (rfl | rfl)
    · exact scalarMove_zeroes_above (exec_vmvSX vd r s)
    · exact scalarMove_zeroes_above (exec_vfmvSF vd r s)

end Sys2Proof.Proofs

namespace Sys2Proof.Proofs

open Sys2Proof.Machine

/-! ### The rows of the opcode map and of the reserved patterns -/

/-- No word carries the patterns of two rows: they differ at a bit that both masks see (30_encoding.md R72). -/
theorem opRows_patterns_apart : opRows.Pairwise fun a b => a.pattern &&& b.mask ≠ b.pattern &&& a.mask := by decide

theorem opRow_not_accepts {w m p : IWord} {r : OpRow} (hw : w &&& m = p) (hapart : p &&& r.mask ≠ r.pattern &&& m) :
    r.accepts w = false :=
  beq_eq_false_iff_ne.mpr (masks_apart hw hapart)

/-- The decoder answers a word with the row whose pattern the word carries: the rows read before it accept no such word. -/
theorem wordsDecodeTo_opRow (k : Nat) (hk : k < opRows.length) :
    WordsDecodeTo opRows[k].mask opRows[k].pattern opRows[k].build := by
  intro w hw
  have hearlier : ∀ j (hj : j < k), opRows[j].accepts w = false := fun j hj =>
    opRow_not_accepts hw (List.pairwise_iff_getElem.mp opRows_patterns_apart j k _ hk hj).symm
  have hfind : opRows.find? (fun r => r.accepts w) = some opRows[k] :=
    List.find?_eq_some_iff_getElem.mpr
      ⟨beq_iff_eq.mpr hw, k, hk, rfl, fun j hj => by simp [hearlier j hj]⟩
  rw [decodeWord, hfind]

/-- A word that carries a reserved pattern apart from every row of the opcode map is a reserved encoding. -/
theorem wordsReserved_of_apart {q : ReservedRow} (hq : q ∈ reservedRows)
    (hapart : ∀ r ∈ opRows, q.pattern &&& r.mask ≠ r.pattern &&& q.mask) : WordsReserved q.mask q.pattern := by
  intro w hw
  have hnone : opRows.find? (fun r => r.accepts w) = none :=
    List.find?_eq_none.mpr fun r hr => by simp [opRow_not_accepts hw (hapart r hr)]
  obtain ⟨r, hfind⟩ := Option.isSome_iff_exists.mp
    (List.find?_isSome (p := fun r => r.accepts w).mpr ⟨q, hq, beq_iff_eq.mpr hw⟩)
  exact ⟨r.name, by rw [decodeWord, hnone, hfind]⟩

/-- The vm = 0 patterns of 30_encoding.md R74 are apart from the opcode map: its rows of these forms have vm = 1. -/
theorem maskedRows_apart : ∀ q ∈ reservedRows.take 5, ∀ r ∈ opRows, q.pattern &&& r.mask ≠ r.pattern &&& q.mask := by
  decide

/-- The words of R74, the first five reserved rows, are reserved encodings. -/
theorem wordsReserved_maskedRow (k : Nat) (hk : k < (reservedRows.take 5).length) :
    WordsReserved (reservedRows.take 5)[k].mask (reservedRows.take 5)[k].pattern := by
  have hmem := List.getElem_mem hk
  exact wordsReserved_of_apart (List.mem_of_mem_take hmem) (maskedRows_apart _ hmem)

/-! ### The scalar moves: the exception, and writing one vector register -/

/-- An instruction whose only check is vtype's raises the exception under vill (60_exceptions.md R181 item 11). -/
theorem raisesIllegal_of_vill {i : Instr} {s t : State} (hexec : exec i s = completeIf (!s.vill) i s t)
    (hvill : s.vill = true) : RaisesIllegal i s :=
  hexec.trans (completeIf_eq_fault.mpr ⟨by simp [hvill], rfl⟩)

theorem completesWithV_of_setV {i : Instr} {s : State} {legal : Bool} {vd : VReg} {a : BitVec s.cfg.vlen}
    (hexec : exec i s = completeIf legal i s (s.setV vd a)) (hlegal : legal = true) :
    CompletesWithV i s (s.v.set vd a) :=
  hexec.trans (completeIf_eq_next.mpr ⟨hlegal, rfl⟩)

/-! ### Element 0 -/

/-- Element 0 is the low SEW bits of the one register named, whatever LMUL is. -/
theorem toNat_elem_zero (s : State) (r : VReg) : (s.elem r 0).toNat = (s.v[r]).toNat % 2 ^ s.sew := by
  simp [State.elem, readElem, readReg_val]

theorem sew_le_vlen (s : State) : s.sew ≤ s.cfg.vlen := Nat.le_of_dvd (Nat.two_pow_pos _) s.sew_dvd_vlen

/-- A scalar fitted to SEW keeps its value when zeros fill the rest of the register. -/
theorem toNat_fitZero_vlen {w : Nat} (s : State) (a : BitVec w) :
    (fitZero s.cfg.vlen (fitZero s.sew a)).toNat = a.toNat % 2 ^ s.sew :=
  (BitVec.toNat_setWidth_of_le (sew_le_vlen s)).trans (BitVec.toNat_setWidth ..)

/-! ### `vmv.x.s` and `vmv.s.x` -/

/-- Settles O34: the words by the rows of their patterns; the move writes element 0 to x[rd] whatever vl, vstart and LMUL
hold. -/
theorem vmvXSCopiesElementZeroZeroExtended : Obligations.VmvXSCopiesElementZeroZeroExtended := by
  refine ⟨wordsDecodeTo_opRow 0 (by decide), wordsReserved_maskedRow 0 (by decide), ?_⟩
  intro s rd vs2
  have hexec := exec_vmvXS rd vs2 s
  have hvalue : (fitZero s.cfg.xlen (s.elem vs2 0)).toNat = (s.v[vs2]).toNat % 2 ^ s.sew % 2 ^ s.cfg.xlen := by
    rw [fitZero, BitVec.toNat_setWidth, toNat_elem_zero]
  exact ⟨raisesIllegal_of_vill hexec, fun hvill =>
    ⟨_, hvalue, hexec.trans (completeIf_eq_next.mpr ⟨by simp [hvill], rfl⟩)⟩⟩

/-- Settles O35: the words by the rows of their patterns; a move with a body sets the whole register, one without a body
writes nothing. -/
theorem vmvSXWritesOneRegisterZeroExtended : Obligations.VmvSXWritesOneRegisterZeroExtended := by
  refine ⟨wordsDecodeTo_opRow 1 (by decide), wordsReserved_maskedRow 1 (by decide), ?_⟩
  intro s vd rs1
  have hexec := exec_vmvSX vd rs1 s
  refine ⟨raisesIllegal_of_vill hexec, fun hvill hbody => ?body, fun hvill hempty => ?empty⟩
  case body =>
    rw [if_pos hbody] at hexec
    exact ⟨_, toNat_fitZero_vlen s (s.readX rs1), completesWithV_of_setV hexec (by simp [hvill])⟩
  case empty =>
    exact completesWithV_of_unwritten hexec (by simp [hvill]) (if_neg (Nat.not_lt.mpr hempty))

end Sys2Proof.Proofs

namespace Sys2Proof.Proofs

open Sys2Proof.Machine

/-! ### Extension by ones, bit by bit -/

/-- Fitting by ones keeps the value's bits and sets the bits above them (42_fp_scalar_move.md R119). -/
theorem getLsbD_fitOnes {w n k : Nat} (a : BitVec w) (hk : k < n) :
    (fitOnes n a).getLsbD k = if k < w then a.getLsbD k else true := by
  by_cases hlow : k < w
  · simp [fitOnes, hk, hlow]
  · have habove : a.getLsbD k = false := BitVec.getLsbD_of_ge a k (Nat.le_of_not_lt hlow)
    simp [fitOnes, hk, hlow, habove]

/-- Fitting by ones examines nothing but the bits it copies. -/
theorem fitOnes_congr {w n : Nat} {a b : BitVec w} (hcopied : ∀ k, k < w → k < n → a.getLsbD k = b.getLsbD k) :
    fitOnes n a = fitOnes n b := by
  apply BitVec.eq_of_getLsbD_eq
  intro k hk
  rw [getLsbD_fitOnes a hk, getLsbD_fitOnes b hk]
  exact ite_congr rfl (fun hlow => hcopied k hlow hk) fun _ => rfl

/-- Fitting by zeros keeps the value's bits and clears the bits above them. -/
theorem getLsbD_fitZero {w n k : Nat} (a : BitVec w) (hk : k < n) :
    (fitZero n a).getLsbD k = if k < w then a.getLsbD k else false := by
  by_cases hlow : k < w
  · simp [fitZero, hk, hlow]
  · simp [fitZero, hlow, BitVec.getLsbD_of_ge a k (Nat.le_of_not_lt hlow)]

/-! ### The bits the two moves copy -/

/-- The bits of element 0 are the low SEW bits of the one register named, whatever LMUL is. -/
theorem getLsbD_elem_zero {s : State} {k : Nat} (r : VReg) (hk : k < s.sew) :
    (s.elem r 0).getLsbD k = (s.v[r]).getLsbD k := by
  simp [State.elem, readElem, readReg_val, hk]

/-- Element 0 boxed to FLEN, in bits of its register. -/
theorem getLsbD_fitOnes_elem_zero {s : State} {k : Nat} (r : VReg) (hk : k < s.cfg.flen) :
    (fitOnes s.cfg.flen (s.elem r 0)).getLsbD k = if k < s.sew then (s.v[r]).getLsbD k else true := by
  rw [getLsbD_fitOnes _ hk]
  exact ite_congr rfl (getLsbD_elem_zero r) fun _ => rfl

/-- A scalar boxed to SEW in a register of zeros, in bits of the scalar. -/
theorem getLsbD_fitZero_fitOnes {w n m k : Nat} (a : BitVec w) (hk : k < n) :
    (fitZero n (fitOnes m a)).getLsbD k = if k < m then (if k < w then a.getLsbD k else true) else false := by
  rw [getLsbD_fitZero _ hk]
  exact ite_congr rfl (getLsbD_fitOnes a) fun _ => rfl

/-! ### `vfmv.f.s` and `vfmv.s.f` -/

theorem exec_vfmvFS (rd : FReg) (vs2 : VReg) (s : State) :
    exec (.vfmvFS rd vs2) s =
      completeIf (!s.vill) (.vfmvFS rd vs2) s (s.setF rd (fitOnes s.cfg.flen (s.elem vs2 0))) := rfl

/-- An instruction whose only check is vtype's completes with vtype valid. -/
theorem exec_eq_next_of_vtype_valid {i : Instr} {s t : State} (hexec : exec i s = completeIf (!s.vill) i s t)
    (hvill : s.vill = false) : exec i s = .next t.complete :=
  hexec.trans (completeIf_eq_next.mpr ⟨by simp [hvill], rfl⟩)

/-- Settles O33: each move is a function of the fitted value, which the copied bits determine. -/
theorem onesExtensionIsABitOperation : Obligations.OnesExtensionIsABitOperation := by
  refine ⟨fun _ _ a _ => getLsbD_fitOnes a, ?toVector, ?toScalar⟩
  case toVector =>
    intro s vd r q hvill hcopied
    have hfitted : fitOnes s.sew (s.readF r) = fitOnes s.sew (s.readF q) :=
      fitOnes_congr fun k hflen hsew => hcopied k hsew hflen
    have hexec := exec_vfmvSF vd r s
    rw [hfitted] at hexec
    exact ⟨_, exec_eq_next_of_vtype_valid hexec hvill, exec_eq_next_of_vtype_valid (exec_vfmvSF vd q s) hvill⟩
  case toScalar =>
    intro s rd a b hvill hcopied
    have hfitted : fitOnes s.cfg.flen (s.elem a 0) = fitOnes s.cfg.flen (s.elem b 0) :=
      fitOnes_congr fun k hsew hflen => by
        rw [getLsbD_elem_zero a hsew, getLsbD_elem_zero b hsew, hcopied k hsew hflen]
    have hexec := exec_vfmvFS rd a s
    rw [hfitted] at hexec
    exact ⟨_, exec_eq_next_of_vtype_valid hexec hvill, exec_eq_next_of_vtype_valid (exec_vfmvFS rd b s) hvill⟩

/-- Settles O36: the words by the rows of their patterns; the move writes element 0, boxed, to f[rd] whatever vl, vstart and
LMUL hold. -/
theorem vfmvFSCopiesElementZeroBoxed : Obligations.VfmvFSCopiesElementZeroBoxed := by
  refine ⟨wordsDecodeTo_opRow 2 (by decide), wordsReserved_maskedRow 2 (by decide), ?_⟩
  intro s rd vs2
  have hexec := exec_vfmvFS rd vs2 s
  exact ⟨raisesIllegal_of_vill hexec, fun hvill =>
    ⟨_, fun _ => getLsbD_fitOnes_elem_zero vs2, exec_eq_next_of_vtype_valid hexec hvill⟩⟩

/-- Settles O37: the words by the rows of their patterns; a move with a body sets the whole register, one without a body
writes nothing. -/
theorem vfmvSFWritesOneRegisterBoxed : Obligations.VfmvSFWritesOneRegisterBoxed := by
  refine ⟨wordsDecodeTo_opRow 3 (by decide), wordsReserved_maskedRow 3 (by decide), ?_⟩
  intro s vd rs1
  have hexec := exec_vfmvSF vd rs1 s
  refine ⟨raisesIllegal_of_vill hexec, fun hvill hbody => ?body, fun hvill hempty => ?empty⟩
  case body =>
    rw [if_pos hbody] at hexec
    exact ⟨_, fun _ => getLsbD_fitZero_fitOnes (s.readF rs1), completesWithV_of_setV hexec (by simp [hvill])⟩
  case empty =>
    exact completesWithV_of_unwritten hexec (by simp [hvill]) (if_neg (Nat.not_lt.mpr hempty))

end Sys2Proof.Proofs

namespace Sys2Proof.Proofs

open Sys2Proof.Machine

/-! ### A masked body of elements -/

/-- The values a body gives its elements: those of the active elements (40_common.md R94), none elsewhere. -/
def activeValue (s : State) (vm : Bool) (value : Nat → Option (BitVec s.sew)) (j : Nat) : Option (BitVec s.sew) :=
  if s.active vm j then value j else none

/-- The vector registers with the active elements of the group at vd for which `value` gives a value replaced by it. -/
def bodyRegs (s : State) (vd : VReg) (vm : Bool) (value : Nat → Option (BitVec s.sew)) : Vector (BitVec s.cfg.vlen) 32 :=
  writeElems s.sew s.v vd.val s.vlmax (activeValue s vm value)

/-- What `bodyRegs` holds as element j of the group: the value of an active element that is given one, the old element
elsewhere. -/
def bodyElem (s : State) (vd : VReg) (vm : Bool) (value : Nat → Option (BitVec s.sew)) (j : Nat) : BitVec s.sew :=
  if s.Active vm j then (value j).getD (s.elem vd j) else s.elem vd j

/-- The instruction makes the checks of its rule on the state, then gives `value` to the body of the group at vd. -/
structure WritesBody (i : Instr) (s : State) (vd : VReg) (value : Nat → Option (BitVec s.sew)) : Prop where
  dest : i.bodyDestination = some vd
  raises : IllegalCause s i → RaisesIllegal i s
  writes : ¬ IllegalCause s i → CompletesWithV i s (bodyRegs s vd i.unmasked value)

theorem writesBody_of_completeIf {i : Instr} {s t : State} {legal : Bool} {vd : VReg} {value : Nat → Option (BitVec s.sew)}
    (hdest : i.bodyDestination = some vd) (hexec : exec i s = completeIf legal i s t)
    (hlegal : legal = true ↔ ¬ IllegalCause s i) (hbody : t = s.updateGroup vd (activeValue s i.unmasked value)) :
    WritesBody i s vd value where
  dest := hdest
  raises hillegal := hexec.trans (completeIf_eq_fault.mpr ⟨by simpa [hillegal] using hlegal, rfl⟩)
  writes hallowed := completesWithV_of_updateGroup (hbody ▸ hexec) (hlegal.mpr hallowed)

theorem readElem_bodyRegs {s : State} {vd : VReg} (vm : Bool) (value : Nat → Option (BitVec s.sew))
    (hgrouped : s.Grouped vd) {j : Nat} (hj : j < s.vlmax) :
    readElem s.sew (bodyRegs s vd vm value) vd.val j = bodyElem s vd vm value j := by
  rw [bodyRegs, State.readElem_updateGroup _ (aligned_iff.mpr hgrouped) hj]
  simp only [activeValue, active_iff, bodyElem]
  split <;> rfl

theorem bodyRegs_sameOutside (s : State) (vd : VReg) (vm : Bool) (value : Nat → Option (BitVec s.sew)) :
    s.SameOutside vd (bodyRegs s vd vm value) := by
  intro r houtside
  refine State.updateGroup_outside _ ?_
  simp only [InRange] at houtside
  omega

/-- An allowed instruction that writes a body updates its group by the table of that body, and nothing else. -/
theorem WritesBody.updatesGroup {i : Instr} {s : State} {vd : VReg} {value : Nat → Option (BitVec s.sew)}
    {table : Nat → BitVec s.sew} (hbody : WritesBody i s vd value) (hallowed : ¬ IllegalCause s i)
    (htable : ∀ j, bodyElem s vd i.unmasked value j = table j) : UpdatesGroup i s vd table := by
  have hgrouped := grouped_of_bodyDestination hbody.dest hallowed
  exact ⟨_, hbody.writes hallowed, fun j hj => (readElem_bodyRegs _ value hgrouped hj).trans (htable j),
    bodyRegs_sameOutside s vd _ value⟩

/-! ### Bodies without an active element -/

theorem writeElems_none {n sew : Nat} (V : Vector (BitVec n) 32) (b count : Nat) :
    writeElems sew V b count (fun _ => none) = V := by
  induction count with
  | zero => rfl
  | succ count ih => rw [writeElems_succ, ih]

theorem bodyRegs_of_inactive {s : State} {vm : Bool} (vd : VReg) (value : Nat → Option (BitVec s.sew))
    (hinactive : ∀ j, s.active vm j = false) : bodyRegs s vd vm value = s.v := by
  have hnone : activeValue s vm value = fun _ => none := funext fun j => by simp [activeValue, hinactive]
  rw [bodyRegs, hnone, writeElems_none]

theorem bodyElem_of_inactive {s : State} {vm : Bool} {j : Nat} (vd : VReg) (value : Nat → Option (BitVec s.sew))
    (hinactive : s.active vm j = false) : bodyElem s vd vm value j = s.elem vd j :=
  if_neg fun hactive => Bool.false_ne_true (hinactive.symm.trans (active_iff.mpr hactive))

/-- Where the mask element is set, the masked body is the unmasked one. -/
theorem bodyElem_of_maskBit {s : State} {vm : Bool} {j : Nat} (vd : VReg) (value : Nat → Option (BitVec s.sew))
    (hmask : s.maskBit 0 j = true) : bodyElem s vd vm value j = bodyElem s vd true value j := by
  simp [bodyElem, State.Active, hmask]

/-! ### The values the slides give their bodies -/

/-- R133: elements from OFFSET on receive `vs2[j - OFFSET]`. -/
def slideUpValue (s : State) (vs2 : VReg) (offset j : Nat) : Option (BitVec s.sew) :=
  if offset ≤ j then some (s.elem vs2 (j - offset)) else none

/-- R135: `vs2[j + OFFSET]`, or 0 from VLMAX on. -/
def slideDownValue (s : State) (vs2 : VReg) (offset j : Nat) : Option (BitVec s.sew) :=
  some (if j + offset < s.vlmax then s.elem vs2 (j + offset) else 0)

/-- R137: the scalar at element 0, `vs2[j - 1]` above it. -/
def slide1UpValue (s : State) (vs2 : VReg) (scalar : BitVec s.sew) (j : Nat) : Option (BitVec s.sew) :=
  some (if j = 0 then scalar else s.elem vs2 (j - 1))

/-- R138: the scalar at element vl - 1, `vs2[j + 1]` below it. -/
def slide1DownValue (s : State) (vs2 : VReg) (scalar : BitVec s.sew) (j : Nat) : Option (BitVec s.sew) :=
  some (if j = s.vl.toNat - 1 then scalar else s.elem vs2 (j + 1))

theorem slideUp_eq_updateGroup (s : State) (vd vs2 : VReg) (offset : Nat) (vm : Bool) :
    s.slideUp vd vs2 offset vm = s.updateGroup vd (activeValue s vm (slideUpValue s vs2 offset)) := by
  refine congrArg (s.updateGroup vd) (funext fun j => ?_)
  cases hactive : s.active vm j <;> simp [activeValue, slideUpValue, hactive]

theorem slideDown_eq_updateGroup (s : State) (vd vs2 : VReg) (offset : Nat) (vm : Bool) :
    s.slideDown vd vs2 offset vm = s.updateGroup vd (activeValue s vm (slideDownValue s vs2 offset)) := rfl

theorem slide1Up_eq_updateGroup (s : State) (vd vs2 : VReg) (scalar : BitVec s.sew) (vm : Bool) :
    s.slide1Up vd vs2 scalar vm = s.updateGroup vd (activeValue s vm (slide1UpValue s vs2 scalar)) := rfl

theorem slide1Down_eq_updateGroup (s : State) (vd vs2 : VReg) (scalar : BitVec s.sew) (vm : Bool) :
    s.slide1Down vd vs2 scalar vm = s.updateGroup vd (activeValue s vm (slide1DownValue s vs2 scalar)) := rfl

section

variable (s : State) (vd vs2 : VReg) (rs1 : XReg) (uimm : Uimm) (vm : Bool)

theorem vslideupVx_writesBody :
    WritesBody (.vslideupVx vd vs2 rs1 vm) s vd (slideUpValue s vs2 (s.readX rs1).toNat) :=
  writesBody_of_completeIf rfl rfl (slideUpLegal_iff.trans not_not.symm) (slideUp_eq_updateGroup ..)

theorem vslideupVi_writesBody :
    WritesBody (.vslideupVi vd vs2 uimm vm) s vd (slideUpValue s vs2 uimm.toNat) :=
  writesBody_of_completeIf rfl rfl (slideUpLegal_iff.trans not_not.symm) (slideUp_eq_updateGroup ..)

theorem vslidedownVx_writesBody :
    WritesBody (.vslidedownVx vd vs2 rs1 vm) s vd (slideDownValue s vs2 (s.readX rs1).toNat) :=
  writesBody_of_completeIf rfl rfl (slideDownLegal_iff.trans not_not.symm) (slideDown_eq_updateGroup ..)

theorem vslidedownVi_writesBody :
    WritesBody (.vslidedownVi vd vs2 uimm vm) s vd (slideDownValue s vs2 uimm.toNat) :=
  writesBody_of_completeIf rfl rfl (slideDownLegal_iff.trans not_not.symm) (slideDown_eq_updateGroup ..)

theorem vslide1upVx_writesBody :
    WritesBody (.vslide1upVx vd vs2 rs1 vm) s vd (slide1UpValue s vs2 (fitSign s.sew (s.readX rs1))) :=
  writesBody_of_completeIf rfl rfl (slideUpLegal_iff.trans not_not.symm) (slide1Up_eq_updateGroup ..)

theorem vslide1downVx_writesBody :
    WritesBody (.vslide1downVx vd vs2 rs1 vm) s vd (slide1DownValue s vs2 (fitZero s.sew (s.readX rs1))) :=
  writesBody_of_completeIf rfl rfl (slideDownLegal_iff.trans not_not.symm) (slide1Down_eq_updateGroup ..)

end

/-! ### `vslideup` and `vslidedown` -/

/-- The table of R133 in one condition: vstart and OFFSET are lower bounds of the same index. -/
theorem bodyElem_slideUpValue (s : State) (vd vs2 : VReg) (offset : Nat) (vm : Bool) (j : Nat) :
    bodyElem s vd vm (slideUpValue s vs2 offset) j =
      if max s.vstart.toNat offset ≤ j ∧ j < s.vl.toNat ∧ (vm = true ∨ s.maskBit 0 j = true)
      then s.elem vs2 (j - offset) else s.elem vd j := by
  by_cases hoffset : offset ≤ j <;> simp [bodyElem, slideUpValue, hoffset]

/-- Settles O39: the word by its row; the body of the slide by the table of R133. -/
theorem vslideupVxMovesElementsUp : Obligations.VslideupVxMovesElementsUp := by
  refine ⟨wordsDecodeTo_opRow 4 (by decide), fun s vd vs2 rs1 vm => ?_⟩
  have hbody := vslideupVx_writesBody s vd vs2 rs1 vm
  exact ⟨hbody.raises, fun hallowed => hbody.updatesGroup (not_not.mpr hallowed) (bodyElem_slideUpValue s vd vs2 _ vm)⟩

/-- Settles O40: as `vslideup.vx`, with the immediate as OFFSET. -/
theorem vslideupViMovesElementsUp : Obligations.VslideupViMovesElementsUp := by
  refine ⟨wordsDecodeTo_opRow 5 (by decide), fun s vd vs2 uimm vm => ?_⟩
  have hbody := vslideupVi_writesBody s vd vs2 uimm vm
  exact ⟨hbody.raises, fun hallowed => hbody.updatesGroup (not_not.mpr hallowed) (bodyElem_slideUpValue s vd vs2 _ vm)⟩

/-- Settles O41: every active element is given a value, so the body is the table of R135 itself. -/
theorem vslidedownVxMovesElementsDown : Obligations.VslidedownVxMovesElementsDown := by
  refine ⟨wordsDecodeTo_opRow 6 (by decide), fun s vd vs2 rs1 vm => ?_⟩
  have hbody := vslidedownVx_writesBody s vd vs2 rs1 vm
  exact ⟨hbody.raises, fun hallowed => hbody.updatesGroup (not_not.mpr hallowed) fun _ => rfl⟩

/-- Settles O42: as `vslidedown.vx`, with the immediate as OFFSET. -/
theorem vslidedownViMovesElementsDown : Obligations.VslidedownViMovesElementsDown := by
  refine ⟨wordsDecodeTo_opRow 7 (by decide), fun s vd vs2 uimm vm => ?_⟩
  have hbody := vslidedownVi_writesBody s vd vs2 uimm vm
  exact ⟨hbody.raises, fun hallowed => hbody.updatesGroup (not_not.mpr hallowed) fun _ => rfl⟩

/-! ### `vslide1up` and `vslide1down` -/

theorem xlen_pos (c : Config) : 0 < c.xlen := by
  unfold Config.xlen
  cases c.xwidth <;> decide

/-- Sign extension bit by bit: every bit above the value's is a copy of its top bit. -/
theorem getLsbD_fitSign {w n k : Nat} (a : BitVec w) (hw : 0 < w) (hk : k < n) :
    (fitSign n a).getLsbD k = a.getLsbD (min k (w - 1)) := by
  rw [fitSign, BitVec.getLsbD_signExtend]
  by_cases hlow : k < w
  · simp [hk, hlow, Nat.min_eq_left (Nat.le_sub_one_of_lt hlow)]
  · simp [hk, hlow, BitVec.msb_eq_getLsbD_last, Nat.min_eq_right (show w - 1 ≤ k by omega)]

/-- The table of R138 by the scalar's index plus one: an active element is below vl, so vl is not 0. -/
theorem bodyElem_slide1DownValue (s : State) (vd vs2 : VReg) (scalar : BitVec s.sew) (vm : Bool) (j : Nat) :
    bodyElem s vd vm (slide1DownValue s vs2 scalar) j =
      if s.Active vm j then (if j + 1 = s.vl.toNat then scalar else s.elem vs2 (j + 1)) else s.elem vd j := by
  refine ite_congr rfl (fun hactive => ?_) fun _ => rfl
  obtain ⟨_, hbelow, _⟩ := hactive
  have hlast : j = s.vl.toNat - 1 ↔ j + 1 = s.vl.toNat := by omega
  simp only [slide1DownValue, hlast, Option.getD_some]

/-- Settles O43: the scalar bit by bit; the body is the table of R137 itself. -/
theorem vslide1upVxInsertsSignExtendedScalar : Obligations.Vslide1upVxInsertsSignExtendedScalar := by
  refine ⟨wordsDecodeTo_opRow 8 (by decide), fun s vd vs2 rs1 vm => ?_⟩
  have hbody := vslide1upVx_writesBody s vd vs2 rs1 vm
  exact ⟨hbody.raises, fun hallowed => ⟨_, fun _ => getLsbD_fitSign _ (xlen_pos s.cfg),
    hbody.updatesGroup (not_not.mpr hallowed) fun _ => rfl⟩⟩

/-- Settles O44: the scalar as a number; the body by the table of R138. -/
theorem vslide1downVxInsertsZeroExtendedScalar : Obligations.Vslide1downVxInsertsZeroExtendedScalar := by
  refine ⟨wordsDecodeTo_opRow 9 (by decide), fun s vd vs2 rs1 vm => ?_⟩
  have hbody := vslide1downVx_writesBody s vd vs2 rs1 vm
  exact ⟨hbody.raises, fun hallowed _ => ⟨_, BitVec.toNat_setWidth ..,
    hbody.updatesGroup (not_not.mpr hallowed) (bodyElem_slide1DownValue s vd vs2 _ vm)⟩⟩

/-! ### The slides as one family -/

/-- A slide and its unmasked form give the same values to the same body; they differ in which of its elements are active. -/
theorem slide_writesBody {i : Instr} (s : State) (hslide : i.isSlide = true) :
    ∃ vd value, WritesBody i s vd value ∧ WritesBody i.asUnmasked s vd value := by
  cases i <;> cases hslide
  case vslideupVx => exact ⟨_, _, vslideupVx_writesBody .., vslideupVx_writesBody ..⟩
  case vslideupVi => exact ⟨_, _, vslideupVi_writesBody .., vslideupVi_writesBody ..⟩
  case vslidedownVx => exact ⟨_, _, vslidedownVx_writesBody .., vslidedownVx_writesBody ..⟩
  case vslidedownVi => exact ⟨_, _, vslidedownVi_writesBody .., vslidedownVi_writesBody ..⟩
  case vslide1upVx => exact ⟨_, _, vslide1upVx_writesBody .., vslide1upVx_writesBody ..⟩
  case vslide1downVx => exact ⟨_, _, vslide1downVx_writesBody .., vslide1downVx_writesBody ..⟩

theorem slideUpAllowed_unmasked {s : State} {vd vs2 : VReg} {vm : Bool} (hallowed : s.SlideUpAllowed vd vs2 vm) :
    s.SlideUpAllowed vd vs2 true := by
  obtain ⟨hvill, hvd, hvs2, hapart, _⟩ := hallowed
  exact ⟨hvill, hvd, hvs2, hapart, .inl rfl⟩

theorem slideDownAllowed_unmasked {s : State} {vd vs2 : VReg} {vm : Bool} (hallowed : s.SlideDownAllowed vd vs2 vm) :
    s.SlideDownAllowed vd vs2 true := by
  obtain ⟨hvill, hvd, hvs2, _⟩ := hallowed
  exact ⟨hvill, hvd, hvs2, .inl rfl⟩

/-- A slide that is legal masked is legal unmasked: the mask's only check is one more. -/
theorem slide_asUnmasked_legal {i : Instr} {s : State} (hslide : i.isSlide = true) (hallowed : ¬ IllegalCause s i) :
    ¬ IllegalCause s i.asUnmasked := by
  cases i <;> cases hslide
  case vslideupVx | vslideupVi | vslide1upVx => exact not_not.mpr (slideUpAllowed_unmasked (not_not.mp hallowed))
  case vslidedownVx | vslidedownVi | vslide1downVx => exact not_not.mpr (slideDownAllowed_unmasked (not_not.mp hallowed))

theorem slide_asUnmasked_unmasked {i : Instr} (hslide : i.isSlide = true) : i.asUnmasked.unmasked = true := by
  cases i <;> cases hslide <;> rfl

/-- Settles O45: the checks read neither vl nor vstart; with no element in the body, what an allowed slide writes is
nothing. -/
theorem slidesPerformNoOperationPastVl : Obligations.SlidesPerformNoOperationPastVl := by
  intro i s hslide hempty
  obtain ⟨vd, value, hbody, _⟩ := slide_writesBody s hslide
  have hinactive : ∀ j, s.active i.unmasked j = false := fun j => active_eq_false_iff.mpr (by omega)
  refine ⟨fun hallowed => ?_, hbody.raises⟩
  have hwrites := hbody.writes hallowed
  rwa [bodyRegs_of_inactive vd value hinactive] at hwrites

/-- Settles O46: the two executions write the same body; element j of it is active masked where it is active unmasked and
its own mask element is set. -/
theorem maskElementControlsItsDestinationElement : Obligations.MaskElementControlsItsDestinationElement := by
  intro s i vd hslide hmasked hdest hallowed
  obtain ⟨vd', value, hbody, hbody'⟩ := slide_writesBody s hslide
  obtain rfl : vd' = vd := Option.some.inj (hbody.dest.symm.trans hdest)
  obtain ⟨M, hM, hMelem, _⟩ := hbody.updatesGroup hallowed fun _ => rfl
  obtain ⟨F, hF, hFelem, _⟩ := hbody'.updatesGroup (slide_asUnmasked_legal hslide hallowed) fun _ => rfl
  rw [slide_asUnmasked_unmasked hslide] at hFelem
  refine ⟨M, F, hM, hF, fun j hj => ?_⟩
  rw [hMelem j hj, hFelem j hj]
  refine ⟨bodyElem_of_maskBit vd' value, fun hoff => ?maskedOff, fun houtside => ?outside⟩
  case maskedOff => exact bodyElem_of_inactive vd' value (active_eq_false_iff.mpr (.inr (.inr ⟨hmasked, hoff⟩)))
  case outside =>
    have hinactive : ∀ vm, s.active vm j = false := fun vm =>
      active_eq_false_iff.mpr (houtside.imp_right .inl)
    exact ⟨bodyElem_of_inactive vd' value (hinactive _), bodyElem_of_inactive vd' value (hinactive _)⟩

end Sys2Proof.Proofs

namespace Sys2Proof.Proofs

open Sys2Proof.Machine

/-! ### The values the gathers give their bodies -/

/-- R151: element j receives the element of `vs2` at index `idx j`. -/
def gatherValue (s : State) (vs2 : VReg) (idx : Nat → Nat) (j : Nat) : Option (BitVec s.sew) :=
  some (s.gathered vs2 (idx j))

theorem gather_eq_updateGroup (s : State) (vd vs2 : VReg) (idx : Nat → Nat) (vm : Bool) :
    s.gather vd vs2 idx vm = s.updateGroup vd (activeValue s vm (gatherValue s vs2 idx)) := rfl

/-- The table of R151: every active element is given a value, which is 0 where its index is not below VLMAX, whatever vl is
(90_conflicts.md C2). -/
theorem bodyElem_gatherValue (s : State) (vd vs2 : VReg) (idx : Nat → Nat) (vm : Bool) (j : Nat) :
    bodyElem s vd vm (gatherValue s vs2 idx) j =
      if s.Active vm j then (if s.vlmax ≤ idx j then 0 else s.elem vs2 (idx j)) else s.elem vd j := rfl

section

variable (s : State) (vd vs2 : VReg) (vm : Bool)

theorem vrgatherVv_writesBody (vs1 : VReg) :
    WritesBody (.vrgatherVv vd vs2 vs1 vm) s vd (gatherValue s vs2 fun j => (s.elem vs1 j).toNat) :=
  writesBody_of_completeIf rfl rfl (gatherIndexLegal_iff.trans not_not.symm) (gather_eq_updateGroup ..)

theorem vrgatherVx_writesBody (rs1 : XReg) :
    WritesBody (.vrgatherVx vd vs2 rs1 vm) s vd (gatherValue s vs2 fun _ => (s.readX rs1).toNat) :=
  writesBody_of_completeIf rfl rfl (gatherLegal_iff.trans not_not.symm) (gather_eq_updateGroup ..)

theorem vrgatherVi_writesBody (uimm : Uimm) :
    WritesBody (.vrgatherVi vd vs2 uimm vm) s vd (gatherValue s vs2 fun _ => uimm.toNat) :=
  writesBody_of_completeIf rfl rfl (gatherLegal_iff.trans not_not.symm) (gather_eq_updateGroup ..)

end

/-! ### The gathers -/

/-- Settles O49: the word by its row; the body by the table of R151, with the elements of vs1 as the indices. -/
theorem vrgatherVvSelectsByIndexElements : Obligations.VrgatherVvSelectsByIndexElements := by
  refine ⟨wordsDecodeTo_opRow 10 (by decide), fun s vd vs2 vs1 vm => ?_⟩
  have hbody := vrgatherVv_writesBody s vd vs2 vm vs1
  exact ⟨hbody.raises, fun hallowed => hbody.updatesGroup (not_not.mpr hallowed) (bodyElem_gatherValue s vd vs2 _ vm)⟩

/-- Settles O50: as `vrgather.vv`, with the integer register as every element's index. -/
theorem vrgatherVxSplatsTheIndexedElement : Obligations.VrgatherVxSplatsTheIndexedElement := by
  refine ⟨wordsDecodeTo_opRow 11 (by decide), fun s vd vs2 rs1 vm => ?_⟩
  have hbody := vrgatherVx_writesBody s vd vs2 vm rs1
  exact ⟨hbody.raises, fun hallowed => hbody.updatesGroup (not_not.mpr hallowed) (bodyElem_gatherValue s vd vs2 _ vm)⟩

/-- Settles O51: as `vrgather.vx`, with the immediate as the index. -/
theorem vrgatherViSplatsTheIndexedElement : Obligations.VrgatherViSplatsTheIndexedElement := by
  refine ⟨wordsDecodeTo_opRow 12 (by decide), fun s vd vs2 uimm vm => ?_⟩
  have hbody := vrgatherVi_writesBody s vd vs2 vm uimm
  exact ⟨hbody.raises, fun hallowed => hbody.updatesGroup (not_not.mpr hallowed) (bodyElem_gatherValue s vd vs2 _ vm)⟩

end Sys2Proof.Proofs

namespace Sys2Proof.Proofs

open Sys2Proof.Machine

/-! ### The increasing list of the numbers that satisfy a predicate -/

theorem length_filter_range (p : Nat → Bool) (n : Nat) :
    ((List.range n).filter p).length = Nat.count (fun k => p k = true) n := by
  simp [Nat.count, List.countP_eq_length_filter]

/-- A number that satisfies the predicate stands in the list of those that do at the place numbered by how many are below
it. -/
theorem getElem?_filter_range_count (p : Nat → Bool) {i n : Nat} (hi : i < n) (hp : p i = true) :
    ((List.range n).filter p)[Nat.count (fun k => p k = true) i]? = some i := by
  have hsplit : List.range n = List.range i ++ i :: (List.range (n - i - 1)).map (i + 1 + ·) := by
    rw [← List.singleton_append, ← List.append_assoc, ← List.range_succ, ← List.range_add]
    congr 1
    omega
  rw [hsplit, ← length_filter_range, List.filter_append, List.filter_cons_of_pos hp]
  simp

/-! ### The selected indices -/

/-- With vl at most VLMAX the selected indices are the set mask elements below vl, none cut off (R160). -/
theorem selected_eq_filter_range {s : State} (vs1 : VReg) (hvl : s.vl.toNat ≤ s.vlmax) :
    s.selected vs1 = (List.range s.vl.toNat).filter (s.maskBit vs1) := by
  simp only [State.selected, Bool.and_comm (decide _)]
  rw [← List.filter_filter, ← List.Ico.zero_bot, List.Ico.filter_lt, Nat.min_eq_right hvl, List.Ico.zero_bot]

/-- The selected index i is the one numbered by how many set mask elements lie below it. -/
theorem selected_getElem?_count {s : State} {vs1 : VReg} {i : Nat} (hvl : s.vl.toNat ≤ s.vlmax) (hi : i < s.vl.toNat)
    (hmask : s.maskBit vs1 i = true) :
    (s.selected vs1)[Nat.count (fun k => s.maskBit vs1 k = true) i]? = some i := by
  rw [selected_eq_filter_range vs1 hvl]
  exact getElem?_filter_range_count _ hi hmask

/-- There are as many selected indices as set mask elements below vl. -/
theorem selected_length {s : State} (vs1 : VReg) (hvl : s.vl.toNat ≤ s.vlmax) :
    (s.selected vs1).length = Nat.count (fun k => s.maskBit vs1 k = true) s.vl.toNat := by
  rw [selected_eq_filter_range vs1 hvl, length_filter_range]

/-! ### What an update of one group writes and leaves -/

/-- A register outside an updated group keeps its value. -/
theorem updateGroup_sameOutside (s : State) (vd : VReg) (new : Nat → Option (BitVec s.sew)) :
    s.SameOutside vd (writeElems s.sew s.v vd.val s.vlmax new) := by
  intro r houtside
  refine State.updateGroup_outside _ ?_
  simp only [InRange] at houtside
  omega

/-- The elements of an aligned group that an update gives a value hold it. -/
theorem readElem_updateGroup_some {s : State} {vd : VReg} {new : Nat → Option (BitVec s.sew)} {j : Nat} {e : BitVec s.sew}
    (hgrouped : s.Grouped vd) (hj : j < s.vlmax) (hsome : new j = some e) :
    readElem s.sew (writeElems s.sew s.v vd.val s.vlmax new) vd.val j = e := by
  rw [State.readElem_updateGroup new (aligned_iff.mpr hgrouped) hj, hsome, Option.getD_some]

/-! ### `vcompress.vm` -/

theorem vcompressVm_raisesIllegal {s : State} {vd vs2 vs1 : VReg} (hillegal : ¬ s.CompressAllowed vd vs2 vs1) :
    RaisesIllegal (.vcompressVm vd vs2 vs1) s :=
  (exec_vcompressVm vd vs2 vs1 s).trans
    (completeIf_eq_fault.mpr ⟨Bool.eq_false_iff.mpr (mt compressLegal_iff.mp hillegal), rfl⟩)

/-- Settles O52: the word by its row and the vm = 0 word by its reserved one; element i of the source is the selected one
numbered by the count below i, and the list of selected indices ends at the count below vl. -/
theorem vcompressVmPacksSelectedElements : Obligations.VcompressVmPacksSelectedElements := by
  refine ⟨wordsDecodeTo_opRow 13 (by decide), wordsReserved_maskedRow 4 (by decide), fun s vd vs2 vs1 =>
    ⟨vcompressVm_raisesIllegal, fun hallowed hvl => ?_⟩⟩
  have hcompletes := completesWithV_of_updateGroup (exec_vcompressVm vd vs2 vs1 s) (compressLegal_iff.mpr hallowed)
  obtain ⟨_, hgrouped, _⟩ := hallowed
  refine ⟨_, hcompletes, fun i hi hmask => ?packed, fun j hrest hj => ?rest, updateGroup_sameOutside s vd _⟩
  case packed =>
    have hplace : Nat.count (fun k => s.maskBit vs1 k = true) i < s.vlmax :=
      (Nat.count_le _).trans_lt (hi.trans_le hvl)
    exact readElem_updateGroup_some hgrouped hplace (by rw [selected_getElem?_count hvl hi hmask, Option.map_some])
  case rest =>
    have hpast : (s.selected vs1)[j]? = none := List.getElem?_eq_none ((selected_length vs1 hvl).trans_le hrest)
    exact readElem_updateGroup_none hgrouped hj (by rw [hpast, Option.map_none])

/-- Settles O53: vstart = 0 is one of the checks, and completion clears vstart. -/
theorem vcompressVmWithNonzeroVstartIsIllegal : Obligations.VcompressVmWithNonzeroVstartIsIllegal := by
  intro s vd vs2 vs1
  refine ⟨fun hvstart => vcompressVm_raisesIllegal fun hallowed => ?illegal, fun t hnext => ?completes⟩
  case illegal =>
    obtain ⟨_, _, _, hzero, _⟩ := hallowed
    exact hvstart hzero
  case completes =>
    rw [exec_vcompressVm] at hnext
    obtain ⟨hlegal, rfl⟩ := completeIf_eq_next.mp hnext
    obtain ⟨_, _, _, hzero, _⟩ := compressLegal_iff.mp hlegal
    exact ⟨hzero, by simp⟩

end Sys2Proof.Proofs

namespace Sys2Proof.Proofs

open Sys2Proof.Machine

/-! ### The check on the register numbers -/

theorem wholeAligned_iff {nf : Nat} {vd vs2 : VReg} :
    wholeAligned nf vd vs2 = true ↔ vd.val % nf = 0 ∧ vs2.val % nf = 0 := by
  simp [wholeAligned]

theorem wholeAligned_eq_false_iff {nf : Nat} {vd vs2 : VReg} :
    wholeAligned nf vd vs2 = false ↔ vd.val % nf ≠ 0 ∨ vs2.val % nf ≠ 0 := by
  rw [← Bool.not_eq_true, wholeAligned_iff, not_and_or]

/-- A block of nf registers at a multiple of nf stays within the 32, since nf divides 32. -/
theorem alignedBlock_le {nf : Nat} {r : VReg} (hnf : nf ∣ 32) (haligned : r.val % nf = 0) : r.val + nf ≤ 32 := by
  have hmod : r.val ≡ 32 [MOD nf] := haligned.trans (Nat.mod_eq_zero_of_dvd hnf).symm
  exact hmod.add_le_of_lt r.isLt

/-! ### The registers of a copied block -/

/-- A register of the destination block holds what its counterpart in the source block held, overlapping blocks
included. -/
theorem readReg_copyBlock_inside {n nf b c k : Nat} (V : Vector (BitVec n) 32) (hk : k < nf) (hb : b + k < 32) :
    readReg (copyBlock V nf b c) (b + k) = readReg V (c + k) := by
  rw [readReg_copyBlock V nf b c (b + k) hb, if_pos ⟨Nat.le_add_right b k, Nat.add_lt_add_left hk b⟩,
    Nat.add_sub_cancel_left]

theorem copyBlock_outside {n nf b c : Nat} (V : Vector (BitVec n) 32) {r : VReg} (houtside : ¬ InRange b nf r.val) :
    (copyBlock V nf b c)[r] = V[r] := by
  rw [InRange] at houtside
  rw [← readReg_val, readReg_copyBlock V nf b c r.val r.isLt, if_neg houtside, readReg_val]

/-- A block of one register is copied by writing that register. -/
theorem copyBlock_one {n : Nat} (V : Vector (BitVec n) 32) (b c : VReg) :
    copyBlock V 1 b.val c.val = V.set b V[c] := by
  have hset : copyBlock V 1 b.val c.val = V.setIfInBounds b (readReg V c) := rfl
  rw [hset, readReg_val]
  ext1 r hr
  rw [Vector.getElem_setIfInBounds, Vector.getElem_set]

/-! ### The whole-register moves of every size -/

section

variable {i : Instr} {s : State} {nf : Nat} {vd vs2 : VReg}

/-- With aligned numbers the move completes from any state: vill, vl and vstart are not among its checks (R170). -/
theorem completesWithV_of_copyRegs (hexec : exec i s = completeIf (wholeAligned nf vd vs2) i s (s.copyRegs nf vd vs2))
    (haligned : vd.val % nf = 0 ∧ vs2.val % nf = 0) : CompletesWithV i s (copyBlock s.v nf vd.val vs2.val) :=
  hexec.trans (completeIf_eq_next.mpr ⟨wholeAligned_iff.mpr haligned, rfl⟩)

theorem raisesIllegal_of_unaligned (hexec : exec i s = completeIf (wholeAligned nf vd vs2) i s (s.copyRegs nf vd vs2))
    (hunaligned : vd.val % nf ≠ 0 ∨ vs2.val % nf ≠ 0) : RaisesIllegal i s :=
  hexec.trans (completeIf_eq_fault.mpr ⟨wholeAligned_eq_false_iff.mpr hunaligned, rfl⟩)

theorem copiesRegisters_of_aligned (hnf : nf ∣ 32)
    (hexec : exec i s = completeIf (wholeAligned nf vd vs2) i s (s.copyRegs nf vd vs2))
    (haligned : vd.val % nf = 0 ∧ vs2.val % nf = 0) : CopiesRegisters i s nf vd vs2 := by
  have hbound : vd.val + nf ≤ 32 := alignedBlock_le hnf haligned.1
  exact ⟨_, completesWithV_of_copyRegs hexec haligned,
    fun k hk => readReg_copyBlock_inside s.v hk (by omega),
    fun r => copyBlock_outside s.v⟩

end

/-- Settles O54: every number is a multiple of 1, so the move completes in every state; its block is the one register. -/
theorem vmv1rVCopiesOneRegister : Obligations.Vmv1rVCopiesOneRegister := by
  refine ⟨wordsDecodeTo_opRow 14 (by decide), fun s vd vs2 => ?_⟩
  rw [← copyBlock_one]
  exact completesWithV_of_copyRegs (exec_vmv1rV vd vs2 s) ⟨Nat.mod_one _, Nat.mod_one _⟩

/-- Settles O55: the word by its row; the move as the one of size 2. -/
theorem vmv2rVCopiesTwoRegisters : Obligations.Vmv2rVCopiesTwoRegisters := by
  refine ⟨wordsDecodeTo_opRow 15 (by decide), fun s vd vs2 => ?_⟩
  have hexec := exec_vmv2rV vd vs2 s
  exact ⟨raisesIllegal_of_unaligned hexec, copiesRegisters_of_aligned (by decide) hexec⟩

/-- Settles O56: the word by its row; the move as the one of size 4. -/
theorem vmv4rVCopiesFourRegisters : Obligations.Vmv4rVCopiesFourRegisters := by
  refine ⟨wordsDecodeTo_opRow 16 (by decide), fun s vd vs2 => ?_⟩
  have hexec := exec_vmv4rV vd vs2 s
  exact ⟨raisesIllegal_of_unaligned hexec, copiesRegisters_of_aligned (by decide) hexec⟩

/-- Settles O57: the word by its row; the move as the one of size 8. -/
theorem vmv8rVCopiesEightRegisters : Obligations.Vmv8rVCopiesEightRegisters := by
  refine ⟨wordsDecodeTo_opRow 17 (by decide), fun s vd vs2 => ?_⟩
  have hexec := exec_vmv8rV vd vs2 s
  exact ⟨raisesIllegal_of_unaligned hexec, copiesRegisters_of_aligned (by decide) hexec⟩

end Sys2Proof.Proofs

namespace Sys2Proof.Proofs

open Sys2Proof.Machine

/-! ### What a word decodes to -/

/-- A word that decodes to an instruction fits a row of the opcode map, and the instruction is the one this row makes of
it. -/
theorem exists_row_of_decodeWord {w : IWord} {i : Instr} (hdecode : decodeWord w = .instr i) :
    ∃ r ∈ opRows, r.accepts w = true ∧ r.build w = i := by
  simp only [decodeWord] at hdecode
  split at hdecode
  next r hfind =>
    obtain ⟨haccepts, _⟩ := List.find?_eq_some_iff_append.mp hfind
    exact ⟨r, List.mem_of_find?_eq_some hfind, haccepts, Decoded.instr.inj hdecode⟩
  next => split at hdecode <;> cases hdecode

theorem fitsOpcodeMap_iff {w : IWord} : FitsOpcodeMap w ↔ ∃ r ∈ opRows, r.accepts w = true := by
  simp only [FitsOpcodeMap, opRows, OpRow.accepts, List.mem_cons, List.not_mem_nil, or_false, exists_eq_or_imp,
    exists_eq_left, beq_iff_eq]
  tauto

theorem find?_opRows_of_not_fits {w : IWord} (hout : ¬ FitsOpcodeMap w) : opRows.find? (fun r => r.accepts w) = none :=
  List.find?_eq_none.mpr fun r hr haccepts => hout (fitsOpcodeMap_iff.mpr ⟨r, hr, haccepts⟩)

/-- A word off the opcode map that fits a reserved pattern is a reserved encoding (30_encoding.md R74, R75). -/
theorem decodeWord_eq_reserved {w : IWord} (hout : ¬ FitsOpcodeMap w)
    (hpattern : ∃ q ∈ reservedRows, q.accepts w = true) :
    ∃ r, decodeWord w = .reserved r := by
  obtain ⟨q, hfind⟩ := Option.isSome_iff_exists.mp (List.find?_isSome.mpr hpattern)
  exact ⟨q.name, by rw [decodeWord, find?_opRows_of_not_fits hout, hfind]⟩

/-- A word off the opcode map that fits no reserved pattern is out of scope (R76). -/
theorem decodeWord_eq_notInScope {w : IWord} (hout : ¬ FitsOpcodeMap w)
    (hpattern : ¬ ∃ q ∈ reservedRows, q.accepts w = true) : decodeWord w = .notInScope := by
  have hfind : reservedRows.find? (fun q => q.accepts w) = none :=
    List.find?_eq_none.mpr fun q hq haccepts => hpattern ⟨q, hq, haccepts⟩
  rw [decodeWord, find?_opRows_of_not_fits hout, hfind]

/-- The pattern of R75 meets no row of the opcode map but those of the four `vmv<nf>r.v`. -/
theorem wholeRow_apart : ∀ r ∈ opRows.take 14, 0x9C003057#32 &&& r.mask ≠ r.pattern &&& 0xFC00707F#32 := by decide

/-- A word with the pattern of R75 fits the opcode map only as one of the four `vmv<nf>r.v`. -/
theorem fitsOpcodeMap_iff_of_wholeRow {w : IWord} (hw : w &&& 0xFC00707F#32 = 0x9C003057#32) :
    FitsOpcodeMap w ↔
      w &&& 0xFE0FF07F#32 ∈ [0x9E003057#32, 0x9E00B057#32, 0x9E01B057#32, 0x9E03B057#32] := by
  have hfirst : ∀ r ∈ opRows.take 14, ¬ r.accepts w = true := fun r hr =>
    Bool.not_eq_true _ ▸ opRow_not_accepts hw (wholeRow_apart r hr)
  rw [fitsOpcodeMap_iff, ← List.take_append_drop 14 opRows]
  simp only [List.mem_append, or_and_right, exists_or]
  rw [or_iff_right (fun ⟨r, hr, haccepts⟩ => hfirst r hr haccepts)]
  simp [opRows, OpRow.accepts]

/-- The first five reserved patterns are those of R74. -/
theorem accepts_maskedRow_iff {w : IWord} :
    (∃ q ∈ reservedRows.take 5, q.accepts w = true) ↔
      w &&& 0xFE0FF07F#32 ∈ [0x40002057#32, 0x40001057#32] ∨ w &&& 0xFFF0707F#32 ∈ [0x40006057#32, 0x40005057#32] ∨
        w &&& 0xFE00707F#32 = 0x5C002057#32 := by
  simp only [reservedRows, ReservedRow.accepts, List.take_succ_cons, List.take_zero, List.mem_cons, List.not_mem_nil,
    or_false, exists_eq_or_imp, exists_eq_left, beq_iff_eq]
  tauto

theorem not_fitsOpcodeMap_of_maskedRow {w : IWord} (hmasked : ∃ q ∈ reservedRows.take 5, q.accepts w = true) :
    ¬ FitsOpcodeMap w := by
  obtain ⟨q, hq, haccepts⟩ := hmasked
  intro hfits
  obtain ⟨r, hr, hrow⟩ := fitsOpcodeMap_iff.mp hfits
  have hrejects := opRow_not_accepts (beq_iff_eq.mp haccepts) (maskedRows_apart q hq r hr)
  exact Bool.false_ne_true (hrejects.symm.trans hrow)

/-- The words R74 and R75 set aside are those of the reserved patterns that are no word of the opcode map. -/
theorem fitsReserved_iff {w : IWord} :
    FitsReserved w ↔ ¬ FitsOpcodeMap w ∧ ∃ q ∈ reservedRows, q.accepts w = true := by
  have hmasked := @not_fitsOpcodeMap_of_maskedRow w
  have hrows : (∃ q ∈ reservedRows, q.accepts w = true) ↔
      (∃ q ∈ reservedRows.take 5, q.accepts w = true) ∨ w &&& 0xFC00707F#32 = 0x9C003057#32 := by
    simp [reservedRows, ReservedRow.accepts, or_assoc]
  have hreserved : FitsReserved w ↔
      (∃ q ∈ reservedRows.take 5, q.accepts w = true) ∨ (w &&& 0xFC00707F#32 = 0x9C003057#32 ∧ ¬ FitsOpcodeMap w) := by
    rw [accepts_maskedRow_iff, and_congr_right fun hw => not_congr (fitsOpcodeMap_iff_of_wholeRow hw), or_assoc, or_assoc]
    rfl
  rw [hreserved, hrows, and_or_left, and_iff_right_of_imp hmasked, and_comm (a := ¬ _)]

/-! ### Words and their fields -/

/-- A field that a mask covers is the one of the pattern. -/
theorem extractLsb'_of_masked {w m p : IWord} {off len : Nat} (hw : w &&& m = p)
    (hcovered : m.extractLsb' off len = BitVec.allOnes len) : w.extractLsb' off len = p.extractLsb' off len := by
  rw [← hw, BitVec.extractLsb'_and, hcovered, BitVec.and_allOnes]

theorem fieldVm_of_masked {w m p : IWord} (hw : w &&& m = p) (hcovered : fieldVm m = true) : fieldVm w = fieldVm p := by
  rw [fieldVm] at hcovered
  rw [← hw, fieldVm, fieldVm, BitVec.getLsbD_and, hcovered, Bool.and_true]

@[simp] theorem regField_fieldVd (w : IWord) : regField (fieldVd w) = w.extractLsb' 7 5 := rfl

@[simp] theorem regField_fieldVs2 (w : IWord) : regField (fieldVs2 w) = w.extractLsb' 20 5 := rfl

/-- A word with the opcode OP-V is put together again from its fields (30_encoding.md R66). -/
theorem opV_of_fields {w : IWord} (hop : w.extractLsb' 0 7 = 0b1010111#7) :
    opV (w.extractLsb' 26 6) (fieldVm w) (regField (fieldVs2 w)) (fieldUimm w) (w.extractLsb' 12 3)
      (regField (fieldVd w)) = w := by
  apply BitVec.eq_of_getLsbD_eq
  intro k hk
  rw [getLsbD_opV, ← hop]
  interval_cases k <;> simp [fieldVm, fieldUimm]

section

variable {f6 : BitVec 6} {vm : Bool} {vs2 mid : BitVec 5} {f3 : BitVec 3} {vd : BitVec 5}

theorem funct6_opV : (opV f6 vm vs2 mid f3 vd).extractLsb' 26 6 = f6 := by
  apply BitVec.eq_of_getLsbD_eq
  intro k hk
  rw [BitVec.getLsbD_extractLsb', getLsbD_opV]
  interval_cases k <;> simp

theorem funct3_opV : (opV f6 vm vs2 mid f3 vd).extractLsb' 12 3 = f3 := by
  apply BitVec.eq_of_getLsbD_eq
  intro k hk
  rw [BitVec.getLsbD_extractLsb', getLsbD_opV]
  interval_cases k <;> simp

theorem opcode_opV : (opV f6 vm vs2 mid f3 vd).extractLsb' 0 7 = 0b1010111#7 := by
  apply BitVec.eq_of_getLsbD_eq
  intro k hk
  rw [BitVec.getLsbD_extractLsb', getLsbD_opV]
  interval_cases k <;> rfl

/-- A word is put together from its operand fields and from funct6 and funct3 of a pattern whose mask covers those and the
opcode, as every mask of the opcode map does. -/
theorem opV_of_masked {w m : IWord} (hw : w &&& m = opV f6 vm vs2 mid f3 vd)
    (hf6 : m.extractLsb' 26 6 = BitVec.allOnes 6) (hf3 : m.extractLsb' 12 3 = BitVec.allOnes 3)
    (hop : m.extractLsb' 0 7 = BitVec.allOnes 7) :
    opV f6 (fieldVm w) (regField (fieldVs2 w)) (fieldUimm w) f3 (regField (fieldVd w)) = w := by
  have hfields := opV_of_fields ((extractLsb'_of_masked hw hop).trans opcode_opV)
  rwa [(extractLsb'_of_masked hw hf6).trans funct6_opV, (extractLsb'_of_masked hw hf3).trans funct3_opV] at hfields

/-- A word of a maskable form. -/
theorem opV_of_maskable {w : IWord} (hw : w &&& 0xFC00707F#32 = opV f6 false 0 0 f3 0) :
    opV f6 (fieldVm w) (regField (fieldVs2 w)) (fieldUimm w) f3 (regField (fieldVd w)) = w :=
  opV_of_masked hw rfl rfl rfl

/-- A word of the compress: vm is fixed. -/
theorem opV_of_unmasked {w : IWord} (hw : w &&& 0xFE00707F#32 = opV f6 vm 0 0 f3 0) :
    opV f6 vm (regField (fieldVs2 w)) (fieldUimm w) f3 (regField (fieldVd w)) = w := by
  have hvm : fieldVm w = vm := (fieldVm_of_masked hw rfl).trans (fieldVm_opV ..)
  rw [← hvm]
  exact opV_of_masked hw rfl rfl rfl

/-- A word of a form with vm and bits 19:15 fixed. -/
theorem opV_of_mid {w : IWord} (hw : w &&& 0xFE0FF07F#32 = opV f6 vm 0 mid f3 0) :
    opV f6 vm (regField (fieldVs2 w)) mid f3 (regField (fieldVd w)) = w := by
  have hvm : fieldVm w = vm := (fieldVm_of_masked hw rfl).trans (fieldVm_opV ..)
  have hmid : fieldUimm w = mid := (extractLsb'_of_masked hw rfl).trans (fieldUimm_opV ..)
  rw [← hvm, ← hmid]
  exact opV_of_masked hw rfl rfl rfl

/-- A word of a form with vm and vs2 fixed. -/
theorem opV_of_vs2 {w : IWord} (hw : w &&& 0xFFF0707F#32 = opV f6 vm vs2 0 f3 0) :
    opV f6 vm vs2 (fieldUimm w) f3 (regField (fieldVd w)) = w := by
  have hvm : fieldVm w = vm := (fieldVm_of_masked hw rfl).trans (fieldVm_opV ..)
  have hvs2 : regField (fieldVs2 w) = vs2 :=
    (extractLsb'_of_masked hw rfl).trans (congrArg regField (fieldVs2_opV f6 vm vs2 0 f3 0))
  rw [← hvm, ← hvs2]
  exact opV_of_masked hw rfl rfl rfl

end

/-- The instruction a row makes of a word it accepts has that word as its encoding: the row's mask covers every bit that is
not an operand's. -/
theorem encode_build_of_accepts {w : IWord} {r : OpRow} (hr : r ∈ opRows) (haccepts : r.accepts w = true) :
    encode (r.build w) = w := by
  have hw : w &&& r.mask = r.pattern := beq_iff_eq.mp haccepts
  simp only [opRows, List.mem_cons, List.not_mem_nil, or_false] at hr
  rcases hr with rfl | rfl | rfl | rfl | rfl | rfl | rfl | rfl | rfl | rfl | rfl | rfl | rfl | rfl | rfl | rfl | rfl | rfl
  · exact opV_of_mid hw
  · exact opV_of_vs2 hw
  · exact opV_of_mid hw
  · exact opV_of_vs2 hw
  iterate 9 exact opV_of_maskable hw
  · exact opV_of_unmasked hw
  iterate 4 exact opV_of_mid hw

/-- Settles O2: the word fits the row it is decoded by, and that row's instruction encodes to it. -/
theorem decodedWordIsItsInstructionsEncoding : Obligations.DecodedWordIsItsInstructionsEncoding := by
  intro w i hdecode
  obtain ⟨r, hr, haccepts, rfl⟩ := exists_row_of_decodeWord hdecode
  exact encode_build_of_accepts hr haccepts

/-! ### Encode, then decode -/

/-- An instruction decodes from its word by the row whose pattern the word carries, where that row's operand fields of the
word are the instruction's operands. -/
theorem decodeWord_encode_of_row {i : Instr} (k : Nat) (hk : k < opRows.length)
    (hpattern : encode i &&& opRows[k].mask = opRows[k].pattern)
    (hbuild : opRows[k].build (encode i) = i := by
      simp [opRows, encode, fieldVd_opV, fieldVs1_opV, fieldVs2_opV, fieldUimm_opV, fieldVm_opV]) :
    decodeWord (encode i) = .instr i :=
  (wordsDecodeTo_opRow k hk _ hpattern).trans (congrArg Decoded.instr hbuild)

/-- Settles O1: each instruction by the row of its form, whose pattern its word carries. -/
theorem everyInstructionDecodesFromItsEncoding : Obligations.EveryInstructionDecodesFromItsEncoding := by
  intro i
  cases i with
  | vmvXS => exact decodeWord_encode_of_row 0 (by decide) (Laws.EncodesRow.vmvXS ..)
  | vmvSX => exact decodeWord_encode_of_row 1 (by decide) (Laws.EncodesRow.vmvSX ..)
  | vfmvFS => exact decodeWord_encode_of_row 2 (by decide) (Laws.EncodesRow.vfmvFS ..)
  | vfmvSF => exact decodeWord_encode_of_row 3 (by decide) (Laws.EncodesRow.vfmvSF ..)
  | vslideupVx => exact decodeWord_encode_of_row 4 (by decide) (Laws.EncodesRow.vslideupVx ..)
  | vslideupVi => exact decodeWord_encode_of_row 5 (by decide) (Laws.EncodesRow.vslideupVi ..)
  | vslidedownVx => exact decodeWord_encode_of_row 6 (by decide) (Laws.EncodesRow.vslidedownVx ..)
  | vslidedownVi => exact decodeWord_encode_of_row 7 (by decide) (Laws.EncodesRow.vslidedownVi ..)
  | vslide1upVx => exact decodeWord_encode_of_row 8 (by decide) (Laws.EncodesRow.vslide1upVx ..)
  | vslide1downVx => exact decodeWord_encode_of_row 9 (by decide) (Laws.EncodesRow.vslide1downVx ..)
  | vrgatherVv => exact decodeWord_encode_of_row 10 (by decide) (Laws.EncodesRow.vrgatherVv ..)
  | vrgatherVx => exact decodeWord_encode_of_row 11 (by decide) (Laws.EncodesRow.vrgatherVx ..)
  | vrgatherVi => exact decodeWord_encode_of_row 12 (by decide) (Laws.EncodesRow.vrgatherVi ..)
  | vcompressVm => exact decodeWord_encode_of_row 13 (by decide) (Laws.EncodesRow.vcompressVm ..)
  | vmv1rV => exact decodeWord_encode_of_row 14 (by decide) (Laws.EncodesRow.vmv1rV ..)
  | vmv2rV => exact decodeWord_encode_of_row 15 (by decide) (Laws.EncodesRow.vmv2rV ..)
  | vmv4rV => exact decodeWord_encode_of_row 16 (by decide) (Laws.EncodesRow.vmv4rV ..)
  | vmv8rV => exact decodeWord_encode_of_row 17 (by decide) (Laws.EncodesRow.vmv8rV ..)

/-! ### The opcode map -/

/-- Settles O3: each row by its number, and the last clause by the row that accepts the word. -/
theorem opcodeMapDecodesExactlyTheTableRows : Obligations.OpcodeMapDecodesExactlyTheTableRows := by
  refine ⟨wordsDecodeTo_opRow 0 (by decide), wordsDecodeTo_opRow 1 (by decide), wordsDecodeTo_opRow 2 (by decide),
    wordsDecodeTo_opRow 3 (by decide), wordsDecodeTo_opRow 4 (by decide), wordsDecodeTo_opRow 5 (by decide),
    wordsDecodeTo_opRow 6 (by decide), wordsDecodeTo_opRow 7 (by decide), wordsDecodeTo_opRow 8 (by decide),
    wordsDecodeTo_opRow 9 (by decide), wordsDecodeTo_opRow 10 (by decide), wordsDecodeTo_opRow 11 (by decide),
    wordsDecodeTo_opRow 12 (by decide), wordsDecodeTo_opRow 13 (by decide), wordsDecodeTo_opRow 14 (by decide),
    wordsDecodeTo_opRow 15 (by decide), wordsDecodeTo_opRow 16 (by decide), wordsDecodeTo_opRow 17 (by decide),
    fun w i hdecode => ?_⟩
  obtain ⟨r, hr, haccepts, _⟩ := exists_row_of_decodeWord hdecode
  exact fitsOpcodeMap_iff.mpr ⟨r, hr, haccepts⟩

/-- Settles O4: two rows' patterns differ at a bit that both masks see. -/
theorem opcodeMapRowsAreDisjoint : Obligations.OpcodeMapRowsAreDisjoint := by
  refine opRows_patterns_apart.imp fun {a b} hapart w => ?_
  rintro ⟨ha, hb⟩
  exact masks_apart (beq_iff_eq.mp ha) hapart (beq_iff_eq.mp hb)

/-! ### Fields and sample words -/

theorem toNat_extractLsb'_eq_div_mod (w : IWord) (off len : Nat) :
    (w.extractLsb' off len).toNat = w.toNat / 2 ^ off % 2 ^ len := by
  rw [BitVec.extractLsb'_toNat, Nat.shiftRight_eq_div_pow]

/-- Settles O5: a field is a quotient of the word by a power of two, reduced to the field's width. -/
theorem operandFieldsAreAtTheirPlaces : Obligations.OperandFieldsAreAtTheirPlaces := by
  intro w
  refine ⟨toNat_extractLsb'_eq_div_mod w 7 5, toNat_extractLsb'_eq_div_mod w 15 5, toNat_extractLsb'_eq_div_mod w 15 5,
    toNat_extractLsb'_eq_div_mod w 20 5, ?_⟩
  rw [fieldVm, BitVec.getLsbD, Nat.testBit_eq_decide_div_mod_eq, decide_eq_true_eq]

/-- Settles O6: the words are closed terms; the decoder computes on them. -/
theorem sampleWordsDecodeAsListed : Obligations.SampleWordsDecodeAsListed := by
  unfold Obligations.SampleWordsDecodeAsListed
  decide

end Sys2Proof.Proofs

namespace Sys2Proof.Proofs

open Sys2Proof.Machine

/-! ### What an instruction can do -/

/-- The registers an instruction leaves: x[rd] may change by `vmv.x.s` alone, f[rd] by `vfmv.f.s` alone, those two leave the
vector registers, and the cell behind x[0] is never written (10_state.md R21, R23, R24). -/
structure RegisterFrame (i : Instr) (s : State) (X : Vector (BitVec s.cfg.xlen) 32) (F : Vector (BitVec s.cfg.flen) 32)
    (V : Vector (BitVec s.cfg.vlen) 32) : Prop where
  x_other : ∀ r : XReg, (∀ vs2, i ≠ .vmvXS r vs2) → X[r] = s.x[r]
  x_zero : X[0] = s.x[0]
  f_other : ∀ r : FReg, (∀ vs2, i ≠ .vfmvFS r vs2) → F[r] = s.f[r]
  v_scalar : ∀ rd vs2, i = .vmvXS rd vs2 ∨ i = .vfmvFS rd vs2 → V = s.v

/-- The state `t` an instruction's writes make of `s`: registers within its frame replaced, and nothing else. -/
def WritesRegisters (i : Instr) (s t : State) : Prop :=
  ∃ X F V, RegisterFrame i s X F V ∧ t = { s with x := X, f := F, v := V }

theorem writesRegisters_of_vector {i : Instr} {s : State} {V : Vector (BitVec s.cfg.vlen) 32}
    (hvector : ∀ rd vs2, ¬ (i = .vmvXS rd vs2 ∨ i = .vfmvFS rd vs2)) : WritesRegisters i s { s with v := V } :=
  ⟨s.x, s.f, V, ⟨fun _ _ => rfl, rfl, fun _ _ => rfl, fun rd vs2 hscalar => absurd hscalar (hvector rd vs2)⟩, rfl⟩

/-- A move of a scalar to a vector register writes one register, or nothing where vstart >= vl. -/
theorem writesRegisters_of_scalarMove {i : Instr} {s : State} {vd : VReg} {a : BitVec s.cfg.vlen} {p : Prop} [Decidable p]
    (hvector : ∀ rd vs2, ¬ (i = .vmvXS rd vs2 ∨ i = .vfmvFS rd vs2)) :
    WritesRegisters i s (if p then s.setV vd a else s) := by
  split <;> exact writesRegisters_of_vector hvector

theorem vector_set_other {α : Type} (X : Vector α 32) {r q : Fin 32} (a : α) (hne : q ≠ r) : (X.set r a)[q] = X[q] :=
  Vector.getElem_set_ne _ _ fun heq => hne (Fin.ext heq.symm)

theorem writesRegisters_vmvXS (rd : XReg) (vs2 : VReg) (s : State) (a : BitVec s.cfg.xlen) :
    WritesRegisters (.vmvXS rd vs2) s (s.setX rd a) := by
  refine ⟨_, s.f, s.v, ⟨fun r hother => ?other, ?zero, fun _ _ => rfl, fun _ _ _ => rfl⟩, rfl⟩
  case other =>
    have hne : r ≠ rd := fun heq => hother vs2 (heq ▸ rfl)
    split
    · rfl
    · exact vector_set_other s.x a hne
  case zero =>
    split
    next => rfl
    next hrd => exact vector_set_other s.x a (q := 0) (Ne.symm hrd)

theorem writesRegisters_vfmvFS (rd : FReg) (vs2 : VReg) (s : State) (a : BitVec s.cfg.flen) :
    WritesRegisters (.vfmvFS rd vs2) s (s.setF rd a) := by
  refine ⟨s.x, _, s.v, ⟨fun _ _ => rfl, rfl, fun r hother => ?_, fun _ _ _ => rfl⟩, rfl⟩
  exact vector_set_other s.f a fun heq => hother vs2 (heq ▸ rfl)

theorem vtypeValid_iff {s : State} : (!s.vill) = true ↔ ¬ s.vill = true := by simp

theorem wholeAligned_iff_allowed {nf : Nat} {vd vs2 : VReg} :
    wholeAligned nf vd vs2 = true ↔ WholeMoveAllowed nf vd vs2 := by
  simp [wholeAligned_iff, WholeMoveAllowed, Nat.dvd_iff_mod_eq_zero]

/-- Every register number is a multiple of 1: `vmv1r.v` meets no cause. -/
theorem wholeAligned_one_iff {vd vs2 : VReg} : wholeAligned 1 vd vs2 = true ↔ ¬ False := by
  simp [wholeAligned_iff, Nat.mod_one]

/-- What the forms without a masked body are: the checks of their rules, then a write of registers within their frame. -/
theorem exec_of_no_bodyDestination {i : Instr} (s : State) (hdest : i.bodyDestination = none) :
    ∃ legal t, exec i s = completeIf legal i s t ∧ (legal = true ↔ ¬ IllegalCause s i) ∧ WritesRegisters i s t := by
  cases i <;> cases hdest
  case vmvXS => exact ⟨_, _, rfl, vtypeValid_iff, writesRegisters_vmvXS ..⟩
  case vfmvFS => exact ⟨_, _, rfl, vtypeValid_iff, writesRegisters_vfmvFS ..⟩
  case vmvSX | vfmvSF => exact ⟨_, _, rfl, vtypeValid_iff, writesRegisters_of_scalarMove (by simp)⟩
  case vcompressVm => exact ⟨_, _, rfl, compressLegal_iff.trans not_not.symm, writesRegisters_of_vector (by simp)⟩
  case vmv1rV => exact ⟨_, _, rfl, wholeAligned_one_iff, writesRegisters_of_vector (by simp)⟩
  case vmv2rV | vmv4rV | vmv8rV =>
    exact ⟨_, _, rfl, wholeAligned_iff_allowed.trans not_not.symm, writesRegisters_of_vector (by simp)⟩

/-- What every instruction is: the checks of its rule, then a write of registers within its frame. -/
theorem exec_eq_completeIf (i : Instr) (s : State) :
    ∃ legal t, exec i s = completeIf legal i s t ∧ (legal = true ↔ ¬ IllegalCause s i) ∧ WritesRegisters i s t := by
  cases hdest : i.bodyDestination with
  | none => exact exec_of_no_bodyDestination s hdest
  | some vd =>
    obtain ⟨legal, _, hexec, hlegal, new, rfl, _⟩ := exec_of_bodyDestination s hdest
    have hvector : ∀ rd vs2, ¬ (i = .vmvXS rd vs2 ∨ i = .vfmvFS rd vs2) := by
      rintro rd vs2 (rfl | rfl) <;> cases hdest
    exact ⟨legal, _, hexec, hlegal, writesRegisters_of_vector hvector⟩

/-- An instruction that completes leaves the state but for its registers, vstart and pc. -/
theorem exec_eq_next {i : Instr} {s t : State} (hnext : exec i s = .next t) :
    ¬ IllegalCause s i ∧ ∃ X F V, RegisterFrame i s X F V ∧
      t = { s with x := X, f := F, v := V, vstart := 0, pc := s.pc + 4 } := by
  obtain ⟨legal, u, hexec, hlegal, X, F, V, hframe, rfl⟩ := exec_eq_completeIf i s
  obtain ⟨hpassed, rfl⟩ := completeIf_eq_next.mp (hexec.symm.trans hnext)
  exact ⟨hlegal.mp hpassed, X, F, V, hframe, rfl⟩

theorem exec_eq_next_of_legal {i : Instr} {s : State} (hallowed : ¬ IllegalCause s i) : ∃ t, exec i s = .next t := by
  obtain ⟨legal, u, hexec, hlegal, _⟩ := exec_eq_completeIf i s
  exact ⟨_, hexec.trans (completeIf_eq_next.mpr ⟨hlegal.mpr hallowed, rfl⟩)⟩

theorem exec_eq_fault {i : Instr} {s : State} {r : Fault} (hfault : exec i s = .fault r) :
    IllegalCause s i ∧ r = .illegalInstruction s.pc.toNat (encode i) := by
  obtain ⟨legal, u, hexec, hlegal, _⟩ := exec_eq_completeIf i s
  obtain ⟨hfailed, rfl⟩ := completeIf_eq_fault.mp (hexec.symm.trans hfault)
  exact ⟨not_not.mp (mt hlegal.mpr (by simp [hfailed])), rfl⟩

theorem raisesIllegal_of_cause {i : Instr} {s : State} (hillegal : IllegalCause s i) : RaisesIllegal i s := by
  obtain ⟨legal, u, hexec, hlegal, _⟩ := exec_eq_completeIf i s
  have hfailed : legal = false := Bool.eq_false_iff.mpr fun hpassed => hlegal.mp hpassed hillegal
  exact hexec.trans (completeIf_eq_fault.mpr ⟨hfailed, rfl⟩)

/-! ### The whole-machine rules -/

/-- Settles O18: of the fields only registers, vstart and pc are replaced. -/
theorem noInstructionWritesVlVtypeOrMemory : Obligations.NoInstructionWritesVlVtypeOrMemory := by
  intro i s t hnext
  obtain ⟨_, X, F, V, _, rfl⟩ := exec_eq_next hnext
  exact ⟨rfl, rfl, rfl, rfl, rfl, fun _ => rfl, rfl⟩

/-- pc advances modulo 2^XLEN (10_state.md R22). -/
theorem toNat_pc_add_four (s : State) : (s.pc + 4).toNat = (s.pc.toNat + 4) % 2 ^ s.cfg.xlen :=
  (BitVec.toNat_add ..).trans (Nat.add_mod_mod ..)

/-- Settles O19: completion writes vstart and pc whatever the instruction is. -/
theorem completionClearsVstartAndAdvancesPc : Obligations.CompletionClearsVstartAndAdvancesPc := by
  intro i s t hnext
  obtain ⟨_, X, F, V, _, rfl⟩ := exec_eq_next hnext
  exact ⟨BitVec.toNat_ofNat .. , toNat_pc_add_four s⟩

/-- Settles O20: the frame of the registers an instruction replaces. -/
theorem scalarRegistersChangeOnlyByScalarMoves : Obligations.ScalarRegistersChangeOnlyByScalarMoves := by
  intro i s t hnext
  obtain ⟨_, X, F, V, hframe, rfl⟩ := exec_eq_next hnext
  refine ⟨fun r hother => ?x, fun r hother => ?f, fun rd vs2 hscalar r => ?v⟩
  case x => simp only [State.readX, hframe.x_other r hother]
  case f => simp only [State.readF, hframe.f_other r hother]
  case v => simp only [hframe.v_scalar rd vs2 hscalar]

/-- Settles O22: an instruction with a cause raises the exception, one without completes. -/
theorem executionCompletesOrRaisesIllegalInstruction : Obligations.ExecutionCompletesOrRaisesIllegalInstruction := by
  intro i s
  by_cases hillegal : IllegalCause s i
  · exact .inr (raisesIllegal_of_cause hillegal)
  · exact .inl (exec_eq_next_of_legal hillegal)

/-- Settles O23: the checks of the meanings are the causes of the list, form by form. -/
theorem illegalInstructionExactlyForTheListedCauses : Obligations.IllegalInstructionExactlyForTheListedCauses := by
  intro i s
  refine ⟨fun hraises => ?_, raisesIllegal_of_cause⟩
  obtain ⟨hillegal, _⟩ := exec_eq_fault hraises
  exact hillegal

/-! ### Well-formed instructions -/

theorem shareRegister_self {a na nb : Nat} (hna : 0 < na) (hnb : 0 < nb) : ShareRegister a na a nb :=
  ⟨a, by simp [InRange, hna], by simp [InRange, hnb]⟩

/-- A group shares its lowest register with any range that starts there. -/
theorem destinationApart_of_not_shareRegister {s : State} {vd vs : VReg} {nb : Nat} (hnb : 0 < nb)
    (hapart : ¬ ShareRegister vd.val s.lmul.regs vs.val nb) : destinationApart vd vs = true := by
  refine bne_iff_ne.mpr ?_
  rintro rfl
  exact hapart (shareRegister_self s.lmul.regs_pos hnb)

theorem destinationApart_of_apart {s : State} {vd vs : VReg} (hapart : s.Apart vd vs) : destinationApart vd vs = true :=
  destinationApart_of_not_shareRegister s.lmul.regs_pos hapart

theorem maskApart_of_maskKept {s : State} {vd : VReg} {vm : Bool} (hmask : s.MaskKept vd vm) : maskApart vd vm = true := by
  rcases hmask with rfl | hapart
  · rfl
  · have hne : (vd != 0) = true := destinationApart_of_not_shareRegister (vs := 0) Nat.one_pos hapart
    simp [maskApart, hne]

/-- An instruction that meets no cause in some state passes the checks on its register numbers. -/
theorem wellFormed_of_legal {i : Instr} {s : State} (hallowed : ¬ IllegalCause s i) : i.wellFormed = true := by
  cases i with
  | vmvXS | vmvSX | vfmvFS | vfmvSF => rfl
  | vslideupVx | vslideupVi | vslide1upVx | vrgatherVx | vrgatherVi =>
    obtain ⟨_, _, _, hapart, hmask⟩ := not_not.mp hallowed
    exact Bool.and_eq_true_iff.mpr ⟨destinationApart_of_apart hapart, maskApart_of_maskKept hmask⟩
  | vslidedownVx | vslidedownVi | vslide1downVx =>
    obtain ⟨_, _, _, hmask⟩ := not_not.mp hallowed
    exact maskApart_of_maskKept hmask
  | vrgatherVv =>
    obtain ⟨_, _, _, _, hapart, hindex, hmask⟩ := not_not.mp hallowed
    simp [Instr.wellFormed, destinationApart_of_apart hapart, destinationApart_of_apart hindex, maskApart_of_maskKept hmask]
  | vcompressVm =>
    obtain ⟨_, _, _, _, hapart, hmask⟩ := not_not.mp hallowed
    exact Bool.and_eq_true_iff.mpr
      ⟨destinationApart_of_apart hapart, destinationApart_of_not_shareRegister Nat.one_pos hmask⟩
  | vmv1rV => exact wholeAligned_one_iff.mpr hallowed
  | vmv2rV | vmv4rV | vmv8rV => exact wholeAligned_iff_allowed.mpr (not_not.mp hallowed)

/-- Settles O24: a state in which the instruction meets no cause would make it well-formed. -/
theorem illFormedInstructionNeverCompletes : Obligations.IllFormedInstructionNeverCompletes := by
  intro i s hillFormed
  refine raisesIllegal_of_cause (not_not.mp fun hallowed => ?_)
  exact Bool.false_ne_true (hillFormed.symm.trans (wellFormed_of_legal hallowed))

/-! ### LMUL = 1: groups of one register -/

section

variable {s : State} {vd vs : VReg} (hlmul : s.lmul = .m1)

include hlmul

theorem grouped_of_lmul_one (r : VReg) : s.Grouped r := by
  rw [State.Grouped, hlmul]
  exact one_dvd _

theorem not_shareRegister_of_lmul_one (hapart : destinationApart vd vs = true) :
    ¬ ShareRegister vd.val s.lmul.regs vs.val 1 := by
  have hone : s.lmul.regs = 1 := congrArg Lmul.regs hlmul
  rintro ⟨r, ⟨hlow, hhigh⟩, hlow', hhigh'⟩
  exact bne_iff_ne.mp hapart (Fin.ext (by omega))

theorem apart_of_lmul_one (hapart : destinationApart vd vs = true) : s.Apart vd vs := by
  have hone : s.lmul.regs = 1 := congrArg Lmul.regs hlmul
  simpa only [State.Apart, hone] using not_shareRegister_of_lmul_one hlmul hapart

theorem maskKept_of_lmul_one {vm : Bool} (hmask : maskApart vd vm = true) : s.MaskKept vd vm := by
  rcases Bool.or_eq_true_iff.mp hmask with hvm | hne
  · exact .inl hvm
  · exact .inr (not_shareRegister_of_lmul_one hlmul (vs := 0) hne)

/-- With LMUL = 1, vill clear and vstart = 0 the checks on the register numbers are all there are. -/
theorem legal_of_wellFormed {i : Instr} (hwellFormed : i.wellFormed = true) (hvill : s.vill = false)
    (hvstart : s.vstart.toNat = 0) : ¬ IllegalCause s i := by
  have hgrouped := grouped_of_lmul_one hlmul
  cases i with
  | vmvXS | vmvSX | vfmvFS | vfmvSF => exact fun hcause => Bool.false_ne_true (hvill.symm.trans hcause)
  | vslideupVx | vslideupVi | vslide1upVx | vrgatherVx | vrgatherVi =>
    obtain ⟨hapart, hmask⟩ := Bool.and_eq_true_iff.mp hwellFormed
    exact not_not.mpr
      ⟨hvill, hgrouped _, hgrouped _, apart_of_lmul_one hlmul hapart, maskKept_of_lmul_one hlmul hmask⟩
  | vslidedownVx | vslidedownVi | vslide1downVx =>
    exact not_not.mpr ⟨hvill, hgrouped _, hgrouped _, maskKept_of_lmul_one hlmul hwellFormed⟩
  | vrgatherVv =>
    obtain ⟨haparts, hmask⟩ := Bool.and_eq_true_iff.mp hwellFormed
    obtain ⟨hapart, hindex⟩ := Bool.and_eq_true_iff.mp haparts
    exact not_not.mpr ⟨hvill, hgrouped _, hgrouped _, hgrouped _, apart_of_lmul_one hlmul hapart,
      apart_of_lmul_one hlmul hindex, maskKept_of_lmul_one hlmul hmask⟩
  | vcompressVm =>
    obtain ⟨hapart, hmask⟩ := Bool.and_eq_true_iff.mp hwellFormed
    exact not_not.mpr ⟨hvill, hgrouped _, hgrouped _, hvstart, apart_of_lmul_one hlmul hapart,
      not_shareRegister_of_lmul_one hlmul hmask⟩
  | vmv1rV => exact id
  | vmv2rV | vmv4rV | vmv8rV => exact not_not.mpr (wholeAligned_iff_allowed.mp hwellFormed)

end

/-- Settles O25: such a state leaves no cause to a well-formed instruction. -/
theorem wellFormedInstructionCompletesAtLmulOne : Obligations.WellFormedInstructionCompletesAtLmulOne := by
  intro i s hwellFormed hvill hlmul hvstart
  exact exec_eq_next_of_legal (legal_of_wellFormed hlmul hwellFormed hvill hvstart)

end Sys2Proof.Proofs

namespace Sys2Proof.Proofs

open Sys2Proof.Machine

/-! ### What one step can do -/

theorem step_of_launchRefusal {s : State} {r : Refusal} (hrefused : s.launchRefusal = some r) : step s = .refused r := by
  simp only [step, hrefused]

section

variable {s : State} {w : IWord} (hlaunch : s.Launchable)

include hlaunch

theorem step_of_endOfText (hend : s.fetchWord = none) : step s = .refused (.endOfText s.pc.toNat) := by
  simp only [step, show s.launchRefusal = none from hlaunch, hend]

theorem step_of_instr {i : Instr} (hfetch : s.fetchWord = some w) (hdecode : decodeWord w = .instr i) :
    step s = exec i s := by
  simp only [step, show s.launchRefusal = none from hlaunch, hfetch, hdecode]

theorem step_of_reserved {r : ReservedEncoding} (hfetch : s.fetchWord = some w) (hdecode : decodeWord w = .reserved r) :
    step s = .fault (.illegalInstruction s.pc.toNat w) := by
  simp only [step, show s.launchRefusal = none from hlaunch, hfetch, hdecode, raiseIllegal]

theorem step_of_notInScope (hfetch : s.fetchWord = some w) (hdecode : decodeWord w = .notInScope) :
    step s = .refused (.notInScope s.pc.toNat w) := by
  simp only [step, show s.launchRefusal = none from hlaunch, hfetch, hdecode]

end

/-- A step that is not refused found a word in a state that may run: an instruction it executes or a reserved encoding it
faults on. -/
theorem step_cases {s : State} (hrun : ∀ r, step s ≠ .refused r) :
    s.Launchable ∧ ∃ w, s.fetchWord = some w ∧
      ((∃ i, decodeWord w = .instr i ∧ step s = exec i s) ∨ step s = .fault (.illegalInstruction s.pc.toNat w)) := by
  cases hlaunch : s.launchRefusal with
  | some r => exact absurd (step_of_launchRefusal hlaunch) (hrun r)
  | none =>
    cases hfetch : s.fetchWord with
    | none => exact absurd (step_of_endOfText hlaunch hfetch) (hrun _)
    | some w =>
      refine ⟨hlaunch, w, rfl, ?_⟩
      cases hdecode : decodeWord w with
      | instr i => exact .inl ⟨i, rfl, step_of_instr hlaunch hfetch hdecode⟩
      | reserved r => exact .inr (step_of_reserved hlaunch hfetch hdecode)
      | notInScope => exact absurd (step_of_notInScope hlaunch hfetch hdecode) (hrun _)
      | truncated => exact absurd (by simp only [step, hlaunch, hfetch, hdecode]) (hrun (.endOfText s.pc.toNat))

theorem step_eq_next {s t : State} (hnext : step s = .next t) :
    s.Launchable ∧ ∃ w i, s.fetchWord = some w ∧ decodeWord w = .instr i ∧ exec i s = .next t := by
  obtain ⟨hlaunch, w, hfetch, ⟨i, hdecode, hexec⟩ | hfault⟩ := step_cases (s := s) (by simp [hnext])
  · exact ⟨hlaunch, w, i, hfetch, hdecode, hexec.symm.trans hnext⟩
  · simp [hnext] at hfault

/-- Settles O7: the step of a fetched instruction. -/
theorem stepRunsTheDecodedInstruction : Obligations.StepRunsTheDecodedInstruction :=
  fun _ _ _ hlaunch => step_of_instr hlaunch

/-- Settles O12: the step without a fetched word. -/
theorem stepPastTheTextIsRefused : Obligations.StepPastTheTextIsRefused :=
  fun _ => step_of_endOfText

/-- Settles O10: a reserved word is off the opcode map and fits a reserved pattern. -/
theorem reservedWordsRaiseIllegalInstruction : Obligations.ReservedWordsRaiseIllegalInstruction := by
  intro s w hlaunch hfetch hreserved
  obtain ⟨hout, hpattern⟩ := fitsReserved_iff.mp hreserved
  obtain ⟨r, hdecode⟩ := decodeWord_eq_reserved hout hpattern
  exact step_of_reserved hlaunch hfetch hdecode

/-- Settles O11: a word off the opcode map fits a reserved pattern only as a reserved word. -/
theorem wordsOutsideTheScopeAreRefused : Obligations.WordsOutsideTheScopeAreRefused := by
  intro s w hlaunch hfetch hout hreserved
  have hpattern : ¬ ∃ q ∈ reservedRows, q.accepts w = true := fun hfits =>
    hreserved (fitsReserved_iff.mpr ⟨hout, hfits⟩)
  exact step_of_notInScope hlaunch hfetch (decodeWord_eq_notInScope hout hpattern)

/-- Settles O14: an instruction reports its encoding, which is the word it was decoded from. -/
theorem stepFaultReportsPcAndFetchedWord : Obligations.StepFaultReportsPcAndFetchedWord := by
  intro s r hfault
  obtain ⟨_, w, hfetch, ⟨i, hdecode, hexec⟩ | hreserved⟩ := step_cases (s := s) (by simp [hfault])
  · obtain ⟨_, rfl⟩ := exec_eq_fault (hexec.symm.trans hfault)
    exact ⟨w, hfetch, by rw [decodedWordIsItsInstructionsEncoding w i hdecode]⟩
  · exact ⟨w, hfetch, Host.Outcome.fault.inj (hfault.symm.trans hreserved)⟩

/-! ### The fetch -/

theorem fetchWord_eq_some {s : State} {b0 b1 b2 b3 : Byte} (h0 : s.mem.read s.pc.toNat = some b0)
    (h1 : s.mem.read (s.pc.toNat + 1) = some b1) (h2 : s.mem.read (s.pc.toNat + 2) = some b2)
    (h3 : s.mem.read (s.pc.toNat + 3) = some b3) : s.fetchWord = some (wordOfBytes b0 b1 b2 b3) := by
  simp only [State.fetchWord, h0, h1, h2, h3]

/-- A word is fetched only where its four bytes are listed. -/
theorem read_isSome_of_fetchWord {s : State} {w : IWord} (hfetch : s.fetchWord = some w) {k : Nat} (hk : k < 4) :
    (s.mem.read (s.pc.toNat + k)).isSome = true := by
  simp only [State.fetchWord] at hfetch
  split at hfetch
  next b0 b1 b2 b3 h0 h1 h2 h3 =>
    interval_cases k <;> simp [*]
  next => cases hfetch

theorem fetchWord_eq_none {s : State} {k : Nat} (hk : k < 4) (hread : s.mem.read (s.pc.toNat + k) = none) :
    s.fetchWord = none := by
  cases hfetch : s.fetchWord with
  | none => rfl
  | some w => simpa [hread] using read_isSome_of_fetchWord hfetch hk

/-- The first byte is the least significant (20_memory.md R52). -/
theorem toNat_wordOfBytes (b0 b1 b2 b3 : Byte) :
    (wordOfBytes b0 b1 b2 b3).toNat = b0.toNat + 2 ^ 8 * b1.toNat + 2 ^ 16 * b2.toNat + 2 ^ 24 * b3.toNat := by
  have happend : ∀ {n : Nat} (a : BitVec n) (b : Byte), (a ++ b).toNat = 2 ^ 8 * a.toNat + b.toNat := fun a b => by
    rw [BitVec.toNat_append, ← Nat.shiftLeft_add_eq_or_of_lt b.isLt, Nat.shiftLeft_eq, Nat.mul_comm]
  simp only [wordOfBytes, happend]
  ring

/-- Settles O8: the four listed bytes are the word's, and one missing byte leaves no word. -/
theorem fetchReadsFourBytesLittleEndian : Obligations.FetchReadsFourBytesLittleEndian := by
  intro s
  exact ⟨fun b0 b1 b2 b3 h0 h1 h2 h3 => ⟨_, fetchWord_eq_some h0 h1 h2 h3, toNat_wordOfBytes b0 b1 b2 b3⟩,
    fun k => fetchWord_eq_none⟩

theorem read_writeBytes_inside (m : Memory) (a : Nat) (bs : List Byte) {k : Nat} (hk : k < bs.length) :
    (m.writeBytes a bs).read (a + k) = some bs[k] := by
  induction bs generalizing m a k with
  | nil => cases hk
  | cons b bs ih =>
    rw [Memory.writeBytes]
    cases k with
    | zero => 
      have hlater : a < a + 1 ∨ a + 1 + bs.length ≤ a := .inl (Nat.lt_succ_self a)
      exact (Memory.read_writeBytes_other _ _ hlater).trans (Memory.read_write_same m a b)
    | succ k =>
      have hrest := ih (m.write a b) (a + 1) (Nat.lt_of_succ_lt_succ hk)
      rwa [Nat.add_right_comm] at hrest

/-- The four bytes of a word, put together, are the word. -/
theorem wordOfBytes_byteOfWord (w : IWord) :
    wordOfBytes (byteOfWord w 0) (byteOfWord w 1) (byteOfWord w 2) (byteOfWord w 3) = w := by
  apply BitVec.eq_of_getLsbD_eq
  intro k hk
  simp only [wordOfBytes, byteOfWord, BitVec.getLsbD_append, BitVec.getLsbD_extractLsb']
  interval_cases k <;> rfl

/-- Settles O9: the four bytes read back and make up the word; the writes of the placing are to these four addresses. -/
theorem placedWordIsTheFetchedWord : Obligations.PlacedWordIsTheFetchedWord := by
  intro s w
  have hread : ∀ k (hk : k < 4),
      (s.placeWord w).mem.read ((s.placeWord w).pc.toNat + k) = some ((bytesOfWord w)[k]'hk) := fun k hk =>
    read_writeBytes_inside s.mem s.pc.toNat (bytesOfWord w) hk
  refine ⟨?_, fun a houtside => Memory.read_writeBytes_other _ _ houtside, State.placeWord_wf w⟩
  rw [fetchWord_eq_some (hread 0 (by decide)) (hread 1 (by decide)) (hread 2 (by decide)) (hread 3 (by decide))]
  exact congrArg some (wordOfBytes_byteOfWord w)

/-! ### The launch premises -/

/-- The listed bytes from an address reach another exactly when every byte between is listed. -/
theorem le_add_textLength_iff {m : Memory} (hwf : m.wf = true) {a b : Nat} :
    b ≤ a + m.textLength a ↔ ∀ x, a ≤ x → x < b → (m.read x).isSome = true := by
  obtain ⟨hlisted, hend⟩ := Memory.textLength_spec hwf a
  refine ⟨fun hreach x hlow hhigh => hlisted x hlow (hhigh.trans_le hreach), fun hall => ?_⟩
  by_contra hshort
  have hnext := hall (a + m.textLength a) (Nat.le_add_right _ _) (Nat.lt_of_not_le hshort)
  rw [hend] at hnext
  cases hnext

/-- The program text wraps when every byte from pc to the top of the address space is listed, and one after it: at 2^XLEN or,
wrapped, at 0 (10_state.md R22, 70_reset_and_hazards.md R202). -/
theorem textWraps_iff {s : State} (hwf : s.mem.wf = true) :
    s.textWraps = true ↔ (∀ a, s.pc.toNat ≤ a → a < 2 ^ s.cfg.xlen → (s.mem.read a).isSome = true) ∧
      ((s.mem.read 0).isSome = true ∨ (s.mem.read (2 ^ s.cfg.xlen)).isSome = true) := by
  rw [State.textWraps, Bool.and_eq_true, decide_eq_true_eq, le_add_textLength_iff hwf, Bool.or_eq_true]

/-- The premises of R202 one by one: P_align, P_vlmax while vill is clear, and the text within the address space. -/
theorem launchable_iff {s : State} :
    s.Launchable ↔ s.pc.toNat % 4 = 0 ∧ (s.vill = true ∨ s.vl.toNat ≤ s.vlmax) ∧ s.textWraps = false := by
  rw [State.Launchable, State.launchRefusal]
  split
  next hpc => simp [hpc]
  next hpc =>
    split
    next hvl =>
      obtain ⟨hvill, habove⟩ := hvl
      simp [hvill, habove]
    next hvl =>
      have hbelow : s.vill = true ∨ s.vl.toNat ≤ s.vlmax := by
        rwa [not_and_or, Bool.not_eq_false, Nat.not_lt] at hvl
      simp [not_not.mp hpc, hbelow]

/-- Settles O13: the premises in the order the step asks them, the wrapping text in terms of listed bytes. -/
theorem failedLaunchPremisesAreRefused : Obligations.FailedLaunchPremisesAreRefused := by
  intro s
  refine ⟨fun hpc => ?align, fun hpc hvill hvl => ?vlmax, fun hpc hvl hwf hlisted hon => ?wraps,
    fun hpc hvl hwf hgap => ?runs⟩
  case align => exact step_of_launchRefusal (if_pos hpc)
  case vlmax => exact step_of_launchRefusal ((if_neg (not_not.mpr hpc)).trans (if_pos ⟨hvill, hvl⟩))
  case wraps =>
    have hwraps : s.textWraps = true := (textWraps_iff hwf).mpr ⟨hlisted, hon⟩
    have hbelow : ¬ (s.vill = false ∧ s.vlmax < s.vl.toNat) := by
      rwa [not_and_or, Bool.not_eq_false, Nat.not_lt]
    exact step_of_launchRefusal ((if_neg (not_not.mpr hpc)).trans ((if_neg hbelow).trans (if_pos hwraps)))
  case runs =>
    refine launchable_iff.mpr ⟨hpc, hvl, Bool.eq_false_iff.mpr fun hwraps => ?_⟩
    obtain ⟨hlisted, hon⟩ := (textWraps_iff hwf).mp hwraps
    rcases hgap with ⟨a, hlow, hhigh, hnone⟩ | ⟨hzero, htop⟩
    · simpa [hnone] using hlisted a hlow hhigh
    · simp [hzero, htop] at hon

/-! ### What a step keeps -/

/-- A text that wraps after a word was left behind wrapped before: the word's four bytes are listed. -/
theorem textWraps_of_complete {s : State} {w : IWord} (hwf : s.mem.wf = true) (hfetch : s.fetchWord = some w)
    (hwraps : s.complete.textWraps = true) : s.textWraps = true := by
  obtain ⟨hlisted, hon⟩ := (textWraps_iff (s := s.complete) hwf).mp hwraps
  refine (textWraps_iff hwf).mpr ⟨fun a hlow hhigh => ?_, hon⟩
  by_cases hword : a < s.pc.toNat + 4
  · obtain ⟨k, rfl⟩ := Nat.exists_eq_add_of_le hlow
    exact read_isSome_of_fetchWord hfetch (Nat.lt_of_add_lt_add_left hword)
  · have hpast : s.pc.toNat + 4 ≤ a := Nat.le_of_not_lt hword
    have hpc : s.complete.pc.toNat = s.pc.toNat + 4 :=
      (toNat_pc_add_four s).trans (Nat.mod_eq_of_lt (hpast.trans_lt hhigh))
    exact hlisted a (hpc.trans_le hpast) hhigh

theorem four_dvd_two_pow_xlen (c : Config) : 4 ∣ 2 ^ c.xlen := by
  unfold Config.xlen
  cases c.xwidth <;> decide

/-- The launch premises go on holding once a word was fetched (log entry 5). -/
theorem complete_launchable {s : State} {w : IWord} (hwf : s.mem.wf = true) (hfetch : s.fetchWord = some w)
    (hlaunch : s.Launchable) : s.complete.Launchable := by
  obtain ⟨halign, hvl, hwraps⟩ := launchable_iff.mp hlaunch
  refine launchable_iff.mpr ⟨?align, hvl, ?wraps⟩
  case align =>
    have hpc : s.complete.pc.toNat = (s.pc.toNat + 4) % 2 ^ s.cfg.xlen := toNat_pc_add_four s
    rw [hpc, Nat.mod_mod_of_dvd _ (four_dvd_two_pow_xlen s.cfg), Nat.add_mod_right, halign]
  case wraps =>
    exact Bool.eq_false_iff.mpr fun hafter => Bool.eq_false_iff.mp hwraps (textWraps_of_complete hwf hfetch hafter)

/-- Settles O17: an instruction's frame keeps the cell behind x[0] and the text; the launch premises read neither registers nor
vstart. -/
theorem everyStepKeepsTheInvariant : Obligations.EveryStepKeepsTheInvariant := by
  rintro s t ⟨hzero, hwf, hlaunch⟩ hnext
  obtain ⟨_, w, i, hfetch, _, hexec⟩ := step_eq_next hnext
  obtain ⟨_, X, F, V, hframe, rfl⟩ := exec_eq_next hexec
  exact ⟨hframe.x_zero.trans hzero, hwf, complete_launchable hwf hfetch hlaunch⟩

/-! ### Runs -/

/-- What a run that completes leaves as it was, with pc advanced by `n` bytes modulo 2^XLEN. -/
structure Advances (n : Nat) (s t : State) : Prop where
  cfg : t.cfg = s.cfg
  mem : t.mem = s.mem
  pc : t.pc.toNat = (s.pc.toNat + n) % 2 ^ s.cfg.xlen
  vl : t.vl.toNat = s.vl.toNat
  vsew : t.vsew.val = s.vsew.val
  lmul : t.lmul = s.lmul
  vill : t.vill = s.vill

theorem Advances.refl (s : State) : Advances 0 s s :=
  ⟨rfl, rfl, (Nat.mod_eq_of_lt s.pc.isLt).symm, rfl, rfl, rfl, rfl⟩

theorem Advances.trans {n m : Nat} {s t u : State} (hst : Advances n s t) (htu : Advances m t u) :
    Advances (n + m) s u where
  cfg := htu.cfg.trans hst.cfg
  mem := htu.mem.trans hst.mem
  pc := by rw [htu.pc, hst.pc, congrArg Config.xlen hst.cfg, Nat.mod_add_mod, Nat.add_assoc]
  vl := htu.vl.trans hst.vl
  vsew := htu.vsew.trans hst.vsew
  lmul := htu.lmul.trans hst.lmul
  vill := htu.vill.trans hst.vill

theorem step_advances {s t : State} (hnext : step s = .next t) : Advances 4 s t := by
  obtain ⟨_, w, i, _, _, hexec⟩ := step_eq_next hnext
  obtain ⟨_, X, F, V, _, rfl⟩ := exec_eq_next hexec
  exact ⟨rfl, rfl, toNat_pc_add_four s, rfl, rfl, rfl, rfl⟩

/-- A run of k + 1 steps that completes is a step that completes and a run of k from there. -/
theorem run_succ_eq_next {M : Host.Core} {k : Nat} {s t : M.State} (hrun : M.run (k + 1) s = .next t) :
    ∃ u, M.step s = .next u ∧ M.run k u = .next t := by
  rw [Host.Core.run] at hrun
  split at hrun
  next u hstep => exact ⟨u, hstep, hrun⟩
  next => cases hrun
  next => cases hrun

/-- Settles O26, by induction on the number of steps. -/
theorem runAdvancesFourBytesPerStep : Obligations.RunAdvancesFourBytesPerStep := by
  intro k s t hrun
  have hadvances : Advances (4 * k) s t := by
    induction k generalizing s with
    | zero =>
      cases hrun
      exact Advances.refl _
    | succ k ih =>
      obtain ⟨u, hstep, hrest⟩ := run_succ_eq_next hrun
      rw [Nat.mul_succ, Nat.add_comm]
      exact (step_advances hstep).trans (ih u hrest)
  exact ⟨hadvances.cfg, hadvances.mem, hadvances.pc, hadvances.vl, hadvances.vsew, hadvances.lmul, hadvances.vill⟩

/-- Settles O27, by induction on the number of steps: each leaves one word of the text behind, and none starts past its
end. -/
theorem runOfTheTextTakesAtMostItsWords : Obligations.RunOfTheTextTakesAtMostItsWords := by
  intro k n s t hfits hend hrun
  induction k generalizing n s with
  | zero => exact Nat.zero_le n
  | succ k ih =>
    obtain ⟨u, hstep, hrest⟩ := run_succ_eq_next hrun
    cases n with
    | zero =>
      obtain ⟨_, w, _, hfetch, _⟩ := step_eq_next hstep
      rw [fetchWord_eq_none (by decide) hend] at hfetch
      cases hfetch
    | succ n =>
      have hadvances := step_advances hstep
      have hpc : u.pc.toNat = s.pc.toNat + 4 := hadvances.pc.trans (Nat.mod_eq_of_lt (by omega))
      have hbound : u.pc.toNat + 4 * n = s.pc.toNat + 4 * (n + 1) := by rw [hpc]; ring
      refine Nat.succ_le_succ (ih n u ?_ ?_ hrest)
      · rwa [hbound, congrArg Config.xlen hadvances.cfg]
      · rwa [hbound, hadvances.mem]

end Sys2Proof.Proofs

namespace Sys2Proof.Proofs

open Sys2Proof.Machine

/-! ### Resuming a slide or gather at vstart = k -/

/-- The state an instruction stopped before element k is resumed from: the registers written so far, and vstart = k. -/
abbrev resumed (s : State) (W : Vector (BitVec s.cfg.vlen) 32) (k : BitVec s.cfg.xlen) : State :=
  { s with v := W, vstart := k }

/-- The registers `W` hold the elements below k of the group at vd as in `V` and everything else as in the state. -/
structure WrittenBelow (s : State) (vd : VReg) (k : Nat) (V W : Vector (BitVec s.cfg.vlen) 32) : Prop where
  done : ∀ j, j < s.vlmax → j < k → readElem s.sew W vd.val j = readElem s.sew V vd.val j
  pending : ∀ j, j < s.vlmax → k ≤ j → readElem s.sew W vd.val j = s.elem vd j
  outside : s.SameOutside vd W

/-- Aligned groups are the same or share no register (40_common.md R92). -/
theorem eq_or_apart {s : State} {a b : VReg} (ha : s.Grouped a) (hb : s.Grouped b) : a = b ∨ s.Apart a b := by
  refine or_iff_not_imp_right.mpr fun hshare => Fin.ext ?_
  obtain ⟨r, ⟨hla, hua⟩, hlb, hub⟩ := not_not.mp hshare
  obtain ⟨m, hm⟩ := ha
  obtain ⟨n, hn⟩ := hb
  have hquotient : ∀ {c p : Nat}, c = s.lmul.regs * p → c ≤ r → r < c + s.lmul.regs → r / s.lmul.regs = p := by
    rintro _ p rfl hlow hhigh
    exact Nat.div_eq_of_lt_le (by rwa [Nat.mul_comm]) (by rwa [Nat.add_mul, Nat.one_mul, Nat.mul_comm p])
  rw [hm, hn, ← hquotient hm hla hua, ← hquotient hn hlb hub]

/-- A read of an element reads one register. -/
theorem readElem_congr {n sew b j : Nat} {V W : Vector (BitVec n) 32}
    (hreg : readReg V (b + j / (n / sew)) = readReg W (b + j / (n / sew))) : readElem sew V b j = readElem sew W b j :=
  congrArg (fun a => a.extractLsb' (j % (n / sew) * sew) sew) hreg

section

variable {s : State} {vd : VReg} {k : BitVec s.cfg.xlen} {V W : Vector (BitVec s.cfg.vlen) 32}
  (hpart : WrittenBelow s vd k.toNat V W)

include hpart

/-- The elements of a group apart from the destination are still the original ones. -/
theorem elem_resumed_of_apart {r : VReg} (hgrouped : s.Grouped r) (hapart : s.Apart vd r) {j : Nat} (hj : j < s.vlmax) :
    (resumed s W k).elem r j = s.elem r j := by
  have hin := Nat.add_lt_add_left (State.elem_reg_lt hj) r.val
  have hbound := State.aligned_bound (aligned_iff.mpr hgrouped)
  have hsame := hpart.outside ⟨_, hin.trans_le hbound⟩ fun hvd => hapart ⟨_, hvd, Nat.le_add_right _ _, hin⟩
  rw [← readReg_val, ← readReg_val] at hsame
  exact readElem_congr hsame

/-- The elements of any group from k on are still the original ones. -/
theorem elem_resumed_of_le {r : VReg} (hvd : s.Grouped vd) (hgrouped : s.Grouped r) {j : Nat} (hk : k.toNat ≤ j)
    (hj : j < s.vlmax) : (resumed s W k).elem r j = s.elem r j := by
  rcases eq_or_apart hvd hgrouped with rfl | hapart
  · exact hpart.pending j hj hk
  · exact elem_resumed_of_apart hpart hgrouped hapart hj

/-- The mask is still the original one where the instruction is masked. -/
theorem maskOn_resumed_iff {vm : Bool} (hmask : s.MaskKept vd vm) (j : Nat) :
    (vm = true ∨ (resumed s W k).maskBit 0 j = true) ↔ (vm = true ∨ s.maskBit 0 j = true) := by
  rcases hmask with hvm | hapart
  · simp only [hvm, true_or]
  · have hzero : W[(0 : VReg)] = s.v[(0 : VReg)] :=
      hpart.outside 0 fun hin => hapart ⟨0, hin, Nat.le_refl 0, Nat.one_pos⟩
    exact or_congr_right (iff_of_eq (congrArg (fun a => a.getLsbD (j * s.mlen) = true) hzero))

/-- From k on the same elements are active. -/
theorem active_resumed_iff {vm : Bool} (hmask : s.MaskKept vd vm) (hvstart : s.vstart.toNat ≤ k.toNat) {j : Nat}
    (hk : k.toNat ≤ j) : (resumed s W k).Active vm j ↔ s.Active vm j :=
  and_congr (iff_of_true hk (hvstart.trans hk)) (and_congr_right fun _ => maskOn_resumed_iff hpart hmask j)

/-! ### The values of the elements from k on -/

section

variable {vs2 : VReg} (hvs2 : s.Grouped vs2) {j : Nat}

include hvs2

theorem slideUpValue_resumed (hapart : s.Apart vd vs2) (hj : j < s.vlmax) (offset : Nat) :
    slideUpValue (resumed s W k) vs2 offset j = slideUpValue s vs2 offset j := by
  have hsource := elem_resumed_of_apart hpart hvs2 hapart ((Nat.sub_le j offset).trans_lt hj)
  exact congrArg (fun e => if offset ≤ j then some e else none) hsource

theorem slide1UpValue_resumed (hapart : s.Apart vd vs2) (hj : j < s.vlmax) (scalar : BitVec s.sew) :
    slide1UpValue (resumed s W k) vs2 scalar j = slide1UpValue s vs2 scalar j := by
  have hsource := elem_resumed_of_apart hpart hvs2 hapart ((Nat.sub_le j 1).trans_lt hj)
  exact congrArg (fun e => some (if j = 0 then scalar else e)) hsource

theorem gatherValue_resumed (hapart : s.Apart vd vs2) {idx idx' : Nat → Nat} (hidx : idx' j = idx j) :
    gatherValue (resumed s W k) vs2 idx' j = gatherValue s vs2 idx j := by
  refine congrArg some ?_
  rw [hidx]
  exact ite_congr rfl (fun _ => rfl) fun hbelow => elem_resumed_of_apart hpart hvs2 hapart (Nat.lt_of_not_le hbelow)

theorem slideDownValue_resumed (hvd : s.Grouped vd) (hk : k.toNat ≤ j) (offset : Nat) :
    slideDownValue (resumed s W k) vs2 offset j = slideDownValue s vs2 offset j :=
  congrArg some (ite_congr rfl
    (fun hbelow => elem_resumed_of_le hpart hvd hvs2 (hk.trans (Nat.le_add_right j offset)) hbelow) fun _ => rfl)

theorem slide1DownValue_resumed (hvd : s.Grouped vd) (hk : k.toNat ≤ j) (hvl : s.vl.toNat ≤ s.vlmax)
    (hbody : j < s.vl.toNat) (scalar : BitVec s.sew) :
    slide1DownValue (resumed s W k) vs2 scalar j = slide1DownValue s vs2 scalar j := by
  refine congrArg some (ite_congr rfl (fun _ => rfl) fun hlast => ?_)
  have hnext : j + 1 ≠ s.vl.toNat := fun heq => hlast (Nat.eq_sub_of_add_eq heq)
  exact elem_resumed_of_le hpart hvd hvs2 (hk.trans (Nat.le_succ j)) ((Nat.lt_of_le_of_ne hbody hnext).trans_le hvl)

end

/-- A legal slide or gather gives its elements from k on the same values before and after the stop: a source is apart from the
destination, or it is read at an index not below the one written. -/
theorem exists_writesBody_resumed {i : Instr} (hdest : i.bodyDestination = some vd) (hallowed : ¬ IllegalCause s i)
    (hvl : s.vl.toNat ≤ s.vlmax) :
    ∃ value value' : Nat → Option (BitVec s.sew), WritesBody i s vd value ∧ WritesBody i (resumed s W k) vd value' ∧
      ∀ j, k.toNat ≤ j → j < s.vl.toNat → value' j = value j := by
  cases i <;> cases hdest
  case vslideupVx =>
    obtain ⟨_, _, hvs2, hapart, _⟩ := not_not.mp hallowed
    exact ⟨_, _, vslideupVx_writesBody .., vslideupVx_writesBody .., fun j _ hj =>
      slideUpValue_resumed hpart hvs2 hapart (hj.trans_le hvl) _⟩
  case vslideupVi =>
    obtain ⟨_, _, hvs2, hapart, _⟩ := not_not.mp hallowed
    exact ⟨_, _, vslideupVi_writesBody .., vslideupVi_writesBody .., fun j _ hj =>
      slideUpValue_resumed hpart hvs2 hapart (hj.trans_le hvl) _⟩
  case vslide1upVx =>
    obtain ⟨_, _, hvs2, hapart, _⟩ := not_not.mp hallowed
    exact ⟨_, _, vslide1upVx_writesBody .., vslide1upVx_writesBody .., fun j _ hj =>
      slide1UpValue_resumed hpart hvs2 hapart (hj.trans_le hvl) _⟩
  case vslidedownVx =>
    obtain ⟨_, hvd, hvs2, _⟩ := not_not.mp hallowed
    exact ⟨_, _, vslidedownVx_writesBody .., vslidedownVx_writesBody .., fun j hk _ =>
      slideDownValue_resumed hpart hvs2 hvd hk _⟩
  case vslidedownVi =>
    obtain ⟨_, hvd, hvs2, _⟩ := not_not.mp hallowed
    exact ⟨_, _, vslidedownVi_writesBody .., vslidedownVi_writesBody .., fun j hk _ =>
      slideDownValue_resumed hpart hvs2 hvd hk _⟩
  case vslide1downVx =>
    obtain ⟨_, hvd, hvs2, _⟩ := not_not.mp hallowed
    exact ⟨_, _, vslide1downVx_writesBody .., vslide1downVx_writesBody .., fun j hk hj =>
      slide1DownValue_resumed hpart hvs2 hvd hk hvl hj _⟩
  case vrgatherVv =>
    obtain ⟨_, _, hvs2, hvs1, hapart, hindex, _⟩ := not_not.mp hallowed
    exact ⟨_, _, vrgatherVv_writesBody .., vrgatherVv_writesBody .., fun j _ hj =>
      gatherValue_resumed hpart hvs2 hapart
        (congrArg BitVec.toNat (elem_resumed_of_apart hpart hvs1 hindex (hj.trans_le hvl)))⟩
  case vrgatherVx =>
    obtain ⟨_, _, hvs2, hapart, _⟩ := not_not.mp hallowed
    exact ⟨_, _, vrgatherVx_writesBody .., vrgatherVx_writesBody .., fun j _ _ =>
      gatherValue_resumed hpart hvs2 hapart rfl⟩
  case vrgatherVi =>
    obtain ⟨_, _, hvs2, hapart, _⟩ := not_not.mp hallowed
    exact ⟨_, _, vrgatherVi_writesBody .., vrgatherVi_writesBody .., fun j _ _ =>
      gatherValue_resumed hpart hvs2 hapart rfl⟩

/-! ### The resumed body is the whole one -/

/-- With the elements below k taken from the whole body and the others given the same values, the resumed body is the whole
one. -/
theorem bodyRegs_resumed {vm : Bool} {value value' : Nat → Option (BitVec s.sew)} (hV : V = bodyRegs s vd vm value)
    (hvd : s.Grouped vd) (hmask : s.MaskKept vd vm) (hvstart : s.vstart.toNat ≤ k.toNat)
    (hvalue : ∀ j, k.toNat ≤ j → j < s.vl.toNat → value' j = value j) :
    bodyRegs (resumed s W k) vd vm value' = V := by
  refine State.registers_ext (s := s) (vd := vd) (fun j hj => ?elements) (fun r hr => ?outside)
  case elements =>
    refine (readElem_bodyRegs (s := resumed s W k) vm value' hvd hj).trans ?_
    rcases Nat.lt_or_ge j k.toNat with hdone | hk
    · exact (bodyElem_of_inactive (s := resumed s W k) vd value' (active_eq_false_iff.mpr (.inl hdone))).trans
        (hpart.done j hj hdone)
    · rw [hV, readElem_bodyRegs vm value hvd hj]
      refine ite_congr (propext (active_resumed_iff hpart hmask hvstart hk)) (fun hactive => ?_) fun _ =>
        hpart.pending j hj hk
      obtain ⟨_, hbody, _⟩ := hactive
      exact congrArg₂ Option.getD (hvalue j hk hbody) (hpart.pending j hj hk)
  case outside =>
    have hout : ¬ InRange vd.val s.lmul.regs r.val := by rw [InRange]; omega
    calc (bodyRegs (resumed s W k) vd vm value')[r]
      _ = W[r] := bodyRegs_sameOutside (resumed s W k) vd vm value' r hout
      _ = s.v[r] := hpart.outside r hout
      _ = V[r] := hV ▸ (bodyRegs_sameOutside s vd vm value r hout).symm

end

theorem maskKept_of_bodyDestination {i : Instr} {s : State} {vd : VReg} (hdest : i.bodyDestination = some vd)
    (hallowed : ¬ IllegalCause s i) : s.MaskKept vd i.unmasked := by
  cases i <;> cases hdest
  case vslideupVx | vslideupVi | vslide1upVx | vrgatherVx | vrgatherVi =>
    obtain ⟨_, _, _, _, hmask⟩ := not_not.mp hallowed
    exact hmask
  case vslidedownVx | vslidedownVi | vslide1downVx =>
    obtain ⟨_, _, _, hmask⟩ := not_not.mp hallowed
    exact hmask
  case vrgatherVv =>
    obtain ⟨_, _, _, _, _, _, hmask⟩ := not_not.mp hallowed
    exact hmask

/-- The checks of a slide or gather read neither the vector registers nor vstart. -/
theorem illegalCause_resumed_iff {i : Instr} {s : State} {vd : VReg} (hdest : i.bodyDestination = some vd)
    (W : Vector (BitVec s.cfg.vlen) 32) (k : BitVec s.cfg.xlen) : IllegalCause (resumed s W k) i ↔ IllegalCause s i := by
  cases i <;> cases hdest <;> rfl

theorem completesWithV_unique {i : Instr} {s : State} {V W : Vector (BitVec s.cfg.vlen) 32} (hV : CompletesWithV i s V)
    (hW : CompletesWithV i s W) : V = W := by
  have hstate := Host.Outcome.next.inj (hV.symm.trans hW)
  injection hstate

/-- Settles O48: the instruction resumed at k is legal as it was, and its body, whose elements below k are done, is the whole
one. -/
theorem restartFromVstartGivesTheUninterruptedResult : Obligations.RestartFromVstartGivesTheUninterruptedResult := by
  intro i s vd V W k hdest hvl hcompletes hvstart _ helems houtside
  have hpart : WrittenBelow s vd k.toNat V W :=
    ⟨fun j hj hdone => (helems j hj).trans (if_pos hdone),
      fun j hj hk => (helems j hj).trans (if_neg (Nat.not_lt.mpr hk)), houtside⟩
  obtain ⟨hallowed, _⟩ := exec_eq_next hcompletes
  obtain ⟨value, value', hbody, hbody', hvalue⟩ := exists_writesBody_resumed hpart hdest hallowed hvl
  have hV := completesWithV_unique hcompletes (hbody.writes hallowed)
  have hwhole := bodyRegs_resumed hpart hV (grouped_of_bodyDestination hdest hallowed)
    (maskKept_of_bodyDestination hdest hallowed) hvstart hvalue
  have hwrites := hbody'.writes (mt (illegalCause_resumed_iff hdest W k).mp hallowed)
  rwa [hwhole] at hwrites

end Sys2Proof.Proofs

namespace Sys2Proof.Proofs

open Sys2Proof.Machine

/-! ### Reset and the integer registers -/

/-- Settles O15: the reset state is a closed term, its register files one value repeated. -/
theorem resetStateHoldsTheLoggedValues : Obligations.ResetStateHoldsTheLoggedValues := by
  have hreplicate : ∀ {n : Nat} (r : Fin 32), (Vector.replicate 32 (0 : BitVec n))[r] = 0 := fun r =>
    Vector.getElem_replicate r.isLt
  exact ⟨rfl, fun r => (ite_congr rfl (fun _ => rfl) fun _ => hreplicate r).trans (ite_self 0), hreplicate, hreplicate,
    rfl, rfl, rfl, rfl, rfl, rfl, fun _ => rfl, rfl, rfl, rfl, rfl, rfl⟩

/-- Settles O16: the premises on closed values, and no text to wrap. -/
theorem invariantHoldsAtReset : Obligations.InvariantHoldsAtReset := by
  refine ⟨rfl, reset_mem_wf, launchable_iff.mpr ⟨rfl, .inr (Nat.zero_le _), ?_⟩⟩
  refine Bool.eq_false_iff.mpr fun hwraps => ?_
  obtain ⟨_, hon⟩ := (textWraps_iff reset_mem_wf).mp hwraps
  exact hon.elim Bool.noConfusion Bool.noConfusion

/-- Settles O21: reads and writes of x[0] are cut off before the register file; the others are those of a vector. -/
theorem xZeroReadsZeroAndOthersHoldWhatWasWritten : Obligations.XZeroReadsZeroAndOthersHoldWhatWasWritten := by
  intro s r q a
  refine ⟨if_pos rfl, setX_zero s a, fun hr => ?same, fun hq => ?other⟩
  case same =>
    have hset : (s.setX r a).x[r] = a := by
      rw [State.setX_x, if_neg hr]
      exact Vector.getElem_set_self r.isLt
    exact (if_neg hr).trans hset
  case other =>
    have hset : (s.setX r a).x[q] = s.x[q] := by
      rw [State.setX_x]
      split
      · rfl
      · exact vector_set_other s.x a hq
    exact ite_congr rfl (fun _ => rfl) fun _ => hset

/-! ### The parameters -/

theorem bits_eq (r : RegWidth) : r.bits = 32 ∨ r.bits = 64 := by
  cases r
  · exact .inl rfl
  · exact .inr rfl

theorem exists_bits {n : Nat} (hn : n = 32 ∨ n = 64) : ∃ r : RegWidth, r.bits = n := by
  rcases hn with rfl | rfl
  · exact ⟨.w32, rfl⟩
  · exact ⟨.w64, rfl⟩

/-- Settles O28: ELEN and VLEN are powers of two whose exponents the two logarithms of `Config` count up from their least
values. -/
theorem parametersCoverTheirDomains : Obligations.ParametersCoverTheirDomains := by
  constructor
  · intro c
    refine ⟨bits_eq _, bits_eq _, ⟨_, rfl⟩, ?_, ⟨_, rfl⟩, ?_, ?_, ?_⟩
    · exact Nat.pow_le_pow_right (i := 3) Nat.two_pos (by omega)
    · exact Nat.pow_le_pow_right (i := 6) Nat.two_pos (by omega)
    · exact Nat.pow_le_pow_right Nat.two_pos (by omega)
    · cases c.maskLayout
      · exact .inl rfl
      · exact .inr rfl
  · intro xl fl a b l hxl hfl ha hb hab
    obtain ⟨rx, rfl⟩ := exists_bits hxl
    obtain ⟨rf, rfl⟩ := exists_bits hfl
    have ha : 3 ≤ a := (Nat.pow_le_pow_iff_right (Nat.lt_succ_self 1)).mp ha
    have hb : 6 ≤ b := (Nat.pow_le_pow_iff_right (Nat.lt_succ_self 1)).mp hb
    have hab : a ≤ b := (Nat.pow_le_pow_iff_right (Nat.lt_succ_self 1)).mp hab
    refine ⟨⟨rx, rf, a - 3, b - max 6 a, l⟩, rfl, rfl, rfl, ?_, ?_⟩
    · exact congrArg (2 ^ ·) (Nat.add_sub_cancel' ha)
    · refine congrArg (2 ^ ·) ?_
      change max 6 (3 + (a - 3)) + (b - max 6 a) = b
      omega

/-! ### VLMAX, SEW and MLEN -/

theorem eight_le_sew (s : State) : 8 ≤ s.sew := Nat.pow_le_pow_right (i := 3) Nat.two_pos (Nat.le_add_right _ _)

theorem sew_le_elen (s : State) : s.sew ≤ s.cfg.elen :=
  Nat.pow_le_pow_right Nat.two_pos (Nat.add_le_add_left (Nat.le_of_lt_succ s.vsew.isLt) 3)

/-- A group holds no more elements than a register has bits: LMUL is at most 8 and SEW at least 8. -/
theorem vlmax_le_vlen (s : State) : s.vlmax ≤ s.cfg.vlen := by
  refine Nat.le_of_mul_le_mul_right ?_ s.sew_pos
  calc s.vlmax * s.sew
    _ = s.lmul.regs * s.cfg.vlen := vlmax_mul_sew s
    _ ≤ s.sew * s.cfg.vlen := Nat.mul_le_mul_right _ (s.lmul.regs_le.trans (eight_le_sew s))
    _ = s.cfg.vlen * s.sew := Nat.mul_comm ..

theorem regs_eq_two_pow (l : Lmul) : ∃ k, l.regs = 2 ^ k := by
  cases l
  · exact ⟨0, rfl⟩
  · exact ⟨1, rfl⟩
  · exact ⟨2, rfl⟩
  · exact ⟨3, rfl⟩

/-- VLMAX divides LMUL * VLEN, a power of two. -/
theorem vlmax_eq_two_pow (s : State) : ∃ k, s.vlmax = 2 ^ k := by
  obtain ⟨k, hk⟩ := regs_eq_two_pow s.lmul
  have hdvd : s.vlmax ∣ 2 ^ (k + (max 6 (3 + s.cfg.elenLog) + s.cfg.vlenLog)) := by
    rw [Nat.pow_add, ← hk]
    exact Dvd.intro _ (vlmax_mul_sew s)
  obtain ⟨m, _, hm⟩ := (Nat.dvd_prime_pow Nat.prime_two).mp hdvd
  exact ⟨m, hm⟩

/-- Settles O29: the parts of the formula of R28, each a power of two. -/
theorem vlmaxElementsFillTheGroup : Obligations.VlmaxElementsFillTheGroup := fun s =>
  ⟨vlmax_mul_sew s, vlmax_eq_two_pow s, vlmax_le_vlen s, ⟨_, rfl⟩, eight_le_sew s, sew_le_elen s⟩

theorem mlen_of_oneBit {s : State} (hlayout : s.cfg.maskLayout = .oneBit) : s.mlen = 1 := by rw [State.mlen, hlayout]

theorem mlen_of_sewOverLmul {s : State} (hlayout : s.cfg.maskLayout = .sewOverLmul) : s.mlen = s.sew / s.lmul.regs := by
  rw [State.mlen, hlayout]

theorem one_le_mlen (s : State) : 1 ≤ s.mlen := by
  cases hlayout : s.cfg.maskLayout with
  | oneBit => exact (mlen_of_oneBit hlayout).ge
  | sewOverLmul =>
    rw [mlen_of_sewOverLmul hlayout]
    exact Nat.div_pos (s.lmul.regs_le.trans (eight_le_sew s)) s.lmul.regs_pos

/-- LMUL registers of elements of SEW bits: a mask element has room for SEW / LMUL bits of one register. -/
theorem vlmax_mul_sew_div_regs_le (s : State) : s.vlmax * (s.sew / s.lmul.regs) ≤ s.cfg.vlen := by
  refine Nat.le_of_mul_le_mul_left ?_ s.lmul.regs_pos
  calc s.lmul.regs * (s.vlmax * (s.sew / s.lmul.regs))
    _ = s.vlmax * (s.sew / s.lmul.regs * s.lmul.regs) := by ring
    _ ≤ s.vlmax * s.sew := Nat.mul_le_mul_left _ (Nat.div_mul_le_self ..)
    _ = s.lmul.regs * s.cfg.vlen := vlmax_mul_sew s

/-- VLMAX mask elements fit one register in both layouts. -/
theorem vlmax_mul_mlen_le (s : State) : s.vlmax * s.mlen ≤ s.cfg.vlen := by
  cases hlayout : s.cfg.maskLayout with
  | oneBit =>
    rw [mlen_of_oneBit hlayout, Nat.mul_one]
    exact vlmax_le_vlen s
  | sewOverLmul =>
    rw [mlen_of_sewOverLmul hlayout]
    exact vlmax_mul_sew_div_regs_le s

/-- Settles O31: a mask element is read at its index times MLEN, which each layout gives. -/
theorem maskElementsLieInOneRegister : Obligations.MaskElementsLieInOneRegister := by
  intro s r i
  refine ⟨fun hlayout => ?_, fun hlayout => ?_, one_le_mlen s, vlmax_mul_mlen_le s⟩
  · rw [State.maskBit, mlen_of_oneBit hlayout, Nat.mul_one]
  · rw [State.maskBit, mlen_of_sewOverLmul hlayout]

/-! ### Overlap -/

/-- Settles O32: the test of R92, and aligned groups, which are the same or apart. -/
theorem overlapMeansASharedRegister : Obligations.OverlapMeansASharedRegister := by
  refine ⟨fun a na b nb => overlap_iff, fun s a b ha hb => ⟨(eq_or_apart ha hb).resolve_right, ?_⟩⟩
  rintro rfl
  exact not_not.mpr (shareRegister_self s.lmul.regs_pos s.lmul.regs_pos)

/-! ### Element addressing -/

/-- A register after an element was written: the one the element lies in with its bits replaced, any other as before. -/
theorem writeElem_getElem {n sew : Nat} (V : Vector (BitVec n) 32) (b i : Nat) (e : BitVec sew) (r : VReg) :
    (writeElem sew V b i e)[r] =
      if r.val = b + i / (n / sew) then insertBits V[r] (i % (n / sew) * sew) e else V[r] := by
  rw [← readReg_val, ← readReg_val]
  split
  next hreg => rw [writeElem, readReg_setIfInBounds, if_pos ⟨hreg.symm, r.isLt⟩, hreg]
  next hreg => exact readReg_writeElem V b i e hreg

/-- Settles O30: an element is read from, and its bits inserted at, one offset of one register. -/
theorem elementsLieAsAddressed : Obligations.ElementsLieAsAddressed := by
  intro s b i e r k _ _ hk epr
  rw [writeElem_getElem]
  refine ⟨fun hreg hlow hhigh => ⟨?read, ?written⟩, fun houtside => ?kept⟩
  case read =>
    have hbit : k - i % epr * s.sew < s.sew := by omega
    rw [State.elem, readElem, ← hreg, readReg_val, BitVec.getLsbD_extractLsb', decide_eq_true hbit, Bool.true_and,
      Nat.add_sub_cancel' hlow]
  case written =>
    rw [if_pos hreg, getLsbD_insertBits, if_pos ⟨hlow, hhigh⟩, decide_eq_true hk, Bool.true_and]
  case kept =>
    split
    next hreg => rw [getLsbD_insertBits, if_neg fun hin => houtside ⟨hreg, hin⟩]
    next => rfl

/-! ### What the moves do not depend on -/

/-- Settles O38: element 0 is read from one register, at a width that vtype's SEW alone gives. -/
theorem scalarReadsIgnoreVlVstartAndLmul : Obligations.ScalarReadsIgnoreVlVstartAndLmul := by
  intro s rx rf vs2 l s0 m hvill
  exact ⟨(s.setX rx (fitZero s.cfg.xlen (s.elem vs2 0))).x, (s.setF rf (fitOnes s.cfg.flen (s.elem vs2 0))).f,
    exec_eq_next_of_vtype_valid (exec_vmvXS rx vs2 s) hvill,
    exec_eq_next_of_vtype_valid (exec_vmvXS rx vs2 { s with vl := l, vstart := s0, lmul := m }) hvill,
    exec_eq_next_of_vtype_valid (exec_vfmvFS rf vs2 s) hvill,
    exec_eq_next_of_vtype_valid (exec_vfmvFS rf vs2 { s with vl := l, vstart := s0, lmul := m }) hvill⟩

/-- A whole-register move of any size: its check and its copy read nothing of the vector control. -/
theorem wholeMove_ignores_control {i : Instr} {nf : Nat} {vd vs2 : VReg} (s : State)
    (hexec : ∀ u, exec i u = completeIf (wholeAligned nf vd vs2) i u (u.copyRegs nf vd vs2))
    (haligned : wholeAligned nf vd vs2 = true) (l s0 : BitVec s.cfg.xlen) (e : Fin (s.cfg.elenLog + 1)) (m : Lmul)
    (ill : Bool) :
    ∃ V : Vector (BitVec s.cfg.vlen) 32, CompletesWithV i s V ∧
      exec i { s with vl := l, vstart := s0, vsew := e, lmul := m, vill := ill } =
        .next { s with vl := l, vsew := e, lmul := m, vill := ill, v := V, vstart := 0, pc := s.pc + 4 } :=
  ⟨copyBlock s.v nf vd.val vs2.val, completesWithV_of_copyRegs (hexec s) (wholeAligned_iff.mp haligned),
    (hexec _).trans (completeIf_eq_next.mpr ⟨haligned, rfl⟩)⟩

/-- Settles O58: the four sizes of one move. -/
theorem wholeMovesIgnoreVectorControl : Obligations.WholeMovesIgnoreVectorControl := by
  intro i s vd vs2 l s0 e m ill hmove hwellFormed
  rcases hmove with rfl | rfl | rfl | rfl
  · exact wholeMove_ignores_control s (exec_vmv1rV vd vs2) hwellFormed l s0 e m ill
  · exact wholeMove_ignores_control s (exec_vmv2rV vd vs2) hwellFormed l s0 e m ill
  · exact wholeMove_ignores_control s (exec_vmv4rV vd vs2) hwellFormed l s0 e m ill
  · exact wholeMove_ignores_control s (exec_vmv8rV vd vs2) hwellFormed l s0 e m ill

end Sys2Proof.Proofs
